-- ==== Sys2Proof/Word.lean ====
section
/-! DEFINITION. Word.lean: the widths the spec gives its words and fields (00_scope.md R9, 30_encoding.md R70), the
three axes, and one value per axis. -/

namespace Sys2Proof

/-- u32 and i32 fields (10_state.md R21, R25): ticks, delays, rates; a signed field is read through `BitVec.toInt`. -/
abbrev Word := BitVec 32

/-- u64 ticks of the time source (30_encoding.md R71 NOW, 10_state.md R22 `nextEventTime`). -/
abbrev Time := BitVec 64

/-- The request word REQ (30_encoding.md R70). -/
abbrev ReqWord := BitVec 128

/-- The response word RSP (30_encoding.md R70). -/
abbrev RspWord := BitVec 64

/-- The command bundle CMD (30_encoding.md R80). -/
abbrev Bundle := BitVec 352

/-- The header H of a command bundle (30_encoding.md R81). -/
abbrev Header := BitVec 64

/-- One raw argument slot of a command bundle (30_encoding.md R83). -/
abbrev SlotWord := BitVec 96

/-- One byte of a carried word (20_memory.md R52). -/
abbrev Byte := BitVec 8

/-- The three axes, X = 0, Y = 1, Z = 2 (00_scope.md R6 `NUM_AXES`). -/
inductive Axis where
  | x | y | z
deriving DecidableEq, Repr

/-- One value for each axis. -/
structure PerAxis (α : Type) where
  x : α
  y : α
  z : α
deriving DecidableEq, Repr

/-- The value of axis `a`. -/
def PerAxis.get {α : Type} (p : PerAxis α) : Axis → α
  | .x => p.x
  | .y => p.y
  | .z => p.z

/-- `p` with axis `a`'s value replaced. -/
def PerAxis.set {α : Type} (p : PerAxis α) : Axis → α → PerAxis α
  | .x, v => { p with x := v }
  | .y, v => { p with y := v }
  | .z, v => { p with z := v }

end Sys2Proof
end

