-- ==== Sys2Proof/Syntax.lean ====
section
/-! DEFINITION. Syntax.lean: the block's instructions as plain data, one constructor for each row of
spec/opcode_table.json: the nine request rows (30_encoding.md R72) and the twelve command rows (R87). -/

namespace Sys2Proof

/-- Argument tags (30_encoding.md R84). -/
inductive ArgTag where
  | x | y | z | f | p | r
  /-- TAG 0b110, reserved: the argument is ignored. -/
  | reserved6
  /-- TAG 0b111, reserved: the argument is ignored. -/
  | reserved7
deriving DecidableEq, Repr

/-- One present argument of a command (30_encoding.md R83, R85). -/
structure Arg where
  tag : ArgTag
  /-- `integerPart`, i32. -/
  int : Word
  /-- `fractionalDigits`, u16. -/
  frac : BitVec 16
  /-- `asFloat`, the raw 32-bit pattern; carried and never computed on (00_scope.md R15). -/
  float : Word
deriving DecidableEq, Repr

/-- The three argument slots of a bundle; `none` is an empty slot (30_encoding.md R83). -/
structure Slots where
  a0 : Option Arg
  a1 : Option Arg
  a2 : Option Arg
deriving DecidableEq, Repr

/-- A decoded command: the twelve rows of the decode map (30_encoding.md R87), in its order. -/
inductive Command where
  | g0 (args : Slots)
  | g1 (args : Slots)
  | g20
  | g21
  | g90
  | g91
  | g92 (args : Slots)
  | m30
  | mOther (major minor : BitVec 16)
  | gUnrecognized (major minor : BitVec 16)
  | nUnrecognized (major minor : BitVec 16)
  | unknownUnrecognized (major minor : BitVec 16)
deriving DecidableEq, Repr

/-- The instructions: the interface operations a host issues (44_machine_ops.md) and the commands the Machine decodes
(45_commands.md). 00_scope.md R2: the block's instructions are these two sets. -/
inductive Instr where
  /-- TICK (R170). -/
  | tick (now : Time)
  /-- STEP_MONITOR (R171); `none` is the idle slot, AXIS = 3. -/
  | stepMonitor (axis : Option Axis) (now : Time)
  /-- POLL (R172) with the command offered beside it, if any. -/
  | poll (offer : Option Bundle)
  /-- ENQUEUE (R173). -/
  | enqueue (cmd : Bundle)
  /-- READ_REG (R176). -/
  | readReg (reg : BitVec 8)
  /-- READ_TABLE (R177). -/
  | readTable (index : BitVec 16)
  /-- Reserved OP 0x0 (R179). -/
  | reservedOp0
  /-- Reserved OP 0x7 (R179). -/
  | reservedOp7
  /-- Reserved OP 0x8 to 0xF (R179): OP = 8 + `low`. -/
  | reservedOpHigh (low : BitVec 3)
  /-- G0, rapid move (R204). -/
  | g0 (args : Slots)
  /-- G1, linear move (R205). -/
  | g1 (args : Slots)
  /-- G20, inch units (R214). -/
  | g20
  /-- G21, millimetre units (R215). -/
  | g21
  /-- G90, absolute mode (R212). -/
  | g90
  /-- G91, relative mode (R213). -/
  | g91
  /-- G92, set offset (R211). -/
  | g92 (args : Slots)
  /-- M30 (R216). -/
  | m30
  /-- Any other M-code (R217). -/
  | mOther (major minor : BitVec 16)
  /-- Any other G-code (R218, decode row 10). -/
  | gUnrecognized (major minor : BitVec 16)
  /-- Any N (R218, decode row 11). -/
  | nUnrecognized (major minor : BitVec 16)
  /-- Any Unknown (R218, decode row 12). -/
  | unknownUnrecognized (major minor : BitVec 16)
deriving DecidableEq, Repr

/-- A decoded command as the instruction of its opcode-table row. -/
def Instr.ofCommand : Command → Instr
  | .g0 args => .g0 args
  | .g1 args => .g1 args
  | .g20 => .g20
  | .g21 => .g21
  | .g90 => .g90
  | .g91 => .g91
  | .g92 args => .g92 args
  | .m30 => .m30
  | .mOther major minor => .mOther major minor
  | .gUnrecognized major minor => .gUnrecognized major minor
  | .nUnrecognized major minor => .nUnrecognized major minor
  | .unknownUnrecognized major minor => .unknownUnrecognized major minor

end Sys2Proof
end

