-- ==== Sys2Proof/WellFormed.lean ====
section
/-! DEFINITION. WellFormed.lean: which terms of `Instr` some encoding stands for. The field types leave two checks: a
catch-all row of the decode map (30_encoding.md R87) holds no header an earlier row takes. -/

namespace Sys2Proof

/-- The G majors that rows 1 to 7 of the decode map take, each with MINOR = 0 (30_encoding.md R87). -/
def recognizedGMajors : List (BitVec 16) := [0#16, 1#16, 20#16, 21#16, 90#16, 91#16, 92#16]

/-- Rows 1 to 7 take this G header, so row 10 does not. -/
def takenByGRow (major minor : BitVec 16) : Bool := minor == 0#16 && recognizedGMajors.contains major

/-- Row 8 takes this M header, so row 9 does not. -/
def takenByM30Row (major minor : BitVec 16) : Bool := minor == 0#16 && major == 30#16

/-- The instruction is one that some encoding decodes to. -/
def Instr.wellFormed : Instr → Bool
  | .mOther major minor => !takenByM30Row major minor
  | .gUnrecognized major minor => !takenByGRow major minor
  | .tick _ => true
  | .stepMonitor _ _ => true
  | .poll _ => true
  | .enqueue _ => true
  | .readReg _ => true
  | .readTable _ => true
  | .reservedOp0 => true
  | .reservedOp7 => true
  | .reservedOpHigh _ => true
  | .g0 _ => true
  | .g1 _ => true
  | .g20 => true
  | .g21 => true
  | .g90 => true
  | .g91 => true
  | .g92 _ => true
  | .m30 => true
  | .nUnrecognized _ _ => true
  | .unknownUnrecognized _ _ => true

end Sys2Proof
end

