-- ==== Sys2Proof/Decode.lean ====
section
/-! DEFINITION. Decode.lean: from the request word and command bundle to an instruction (30_encoding.md R70 to R87), the
bytes that carry those words and the response word (20_memory.md R52), and the encoder written from the same tables. -/

namespace Sys2Proof

/-- Why carried words are no instruction of the block. -/
inductive DecodeError where
  /-- The byte sequence is neither a REQ (16 bytes), nor a REQ with its CMD (60), nor a CMD (44); or it was to carry an RSP
  and is not 8 bytes long. -/
  | wrongLength
  /-- An ENQUEUE with no command bundle: a bundle always accompanies ENQUEUE (30_encoding.md R70). -/
  | enqueueWithoutCommand
  /-- Neither a request word nor a command bundle was given. -/
  | nothingCarried
deriving DecidableEq, Repr

/-! ## Request words -/

/-- REQ.OP (30_encoding.md R71). -/
def reqOp (r : ReqWord) : BitVec 4 := r.extractLsb' 0 4
/-- REQ.AXIS (30_encoding.md R71). -/
def reqAxis (r : ReqWord) : BitVec 2 := r.extractLsb' 4 2
/-- REQ.REG (30_encoding.md R71). -/
def reqReg (r : ReqWord) : BitVec 8 := r.extractLsb' 8 8
/-- REQ.INDEX (30_encoding.md R71). -/
def reqIndex (r : ReqWord) : BitVec 16 := r.extractLsb' 16 16
/-- REQ.NOW (30_encoding.md R71). -/
def reqNow (r : ReqWord) : Time := r.extractLsb' 64 64

/-- AXIS 0 = X, 1 = Y, 2 = Z, 3 = idle slot (30_encoding.md R71). -/
def axisOfCode (v : BitVec 2) : Option Axis :=
  match v.toNat with
  | 0 => some .x
  | 1 => some .y
  | 2 => some .z
  | _ => none

/-- The request's operation by its OP (30_encoding.md R72, R73), with the bundle carried beside it. Fields an operation
does not use, reserved bits among them, have no effect (R71). DESIGN CHOICE (log 14): a bundle beside a request that is
neither an ENQUEUE nor a POLL, which R70 does not speak of, has no effect either. -/
def decodeReq (r : ReqWord) (cmd : Option Bundle) : Except DecodeError Instr :=
  match (reqOp r).toNat with
  | 0 => .ok .reservedOp0
  | 1 => .ok (.tick (reqNow r))
  | 2 => .ok (.stepMonitor (axisOfCode (reqAxis r)) (reqNow r))
  | 3 => .ok (.poll cmd)
  | 4 =>
    match cmd with
    | some c => .ok (.enqueue c)
    | none => .error .enqueueWithoutCommand
  | 5 => .ok (.readReg (reqReg r))
  | 6 => .ok (.readTable (reqIndex r))
  | 7 => .ok .reservedOp7
  | _ => .ok (.reservedOpHigh (r.extractLsb' 0 3))

/-! ## Command bundles -/

/-- H, the header of a bundle (30_encoding.md R80). -/
def cmdHeader (c : Bundle) : Header := c.extractLsb' 0 64
/-- A0 (30_encoding.md R80). -/
def cmdSlot0 (c : Bundle) : SlotWord := c.extractLsb' 64 96
/-- A1 (30_encoding.md R80). -/
def cmdSlot1 (c : Bundle) : SlotWord := c.extractLsb' 160 96
/-- A2 (30_encoding.md R80). -/
def cmdSlot2 (c : Bundle) : SlotWord := c.extractLsb' 256 96

/-- H.MNEM (30_encoding.md R81, R82). -/
def headerMnem (h : Header) : BitVec 2 := h.extractLsb' 0 2
/-- H.MAJOR (30_encoding.md R81). -/
def headerMajor (h : Header) : BitVec 16 := h.extractLsb' 16 16
/-- H.MINOR (30_encoding.md R81). -/
def headerMinor (h : Header) : BitVec 16 := h.extractLsb' 32 16

/-- TAG values (30_encoding.md R84). -/
def tagOfCode (v : BitVec 3) : ArgTag :=
  match v.toNat with
  | 0 => .x
  | 1 => .y
  | 2 => .z
  | 3 => .f
  | 4 => .p
  | 5 => .r
  | 6 => .reserved6
  | _ => .reserved7

/-- An argument slot (30_encoding.md R83); without PRESENT every other bit is ignored. -/
def decodeSlot (w : SlotWord) : Option Arg :=
  if w.extractLsb' 51 1 = 1#1 then
    some { tag := tagOfCode (w.extractLsb' 48 3), int := w.extractLsb' 0 32,
           frac := w.extractLsb' 32 16, float := w.extractLsb' 64 32 }
  else none

/-- The three slots of a bundle. -/
def decodeSlots (c : Bundle) : Slots :=
  { a0 := decodeSlot (cmdSlot0 c), a1 := decodeSlot (cmdSlot1 c), a2 := decodeSlot (cmdSlot2 c) }

/-- Rows 1 to 7 and 10 of the decode map, the G rows (30_encoding.md R87). -/
def decodeG (major minor : BitVec 16) (args : Slots) : Command :=
  if minor = 0#16 then
    match major.toNat with
    | 0 => .g0 args
    | 1 => .g1 args
    | 20 => .g20
    | 21 => .g21
    | 90 => .g90
    | 91 => .g91
    | 92 => .g92 args
    | _ => .gUnrecognized major minor
  else .gUnrecognized major minor

/-- Rows 8 and 9 of the decode map, the M rows (30_encoding.md R87). -/
def decodeM (major minor : BitVec 16) : Command :=
  if major = 30#16 ∧ minor = 0#16 then .m30 else .mOther major minor

/-- The decode map (30_encoding.md R87): every bundle is exactly one row's (R86). -/
def decodeCmd (c : Bundle) : Command :=
  let h := cmdHeader c
  match (headerMnem h).toNat with
  | 0 => decodeG (headerMajor h) (headerMinor h) (decodeSlots c)
  | 1 => decodeM (headerMajor h) (headerMinor h)
  | 2 => .nUnrecognized (headerMajor h) (headerMinor h)
  | _ => .unknownUnrecognized (headerMajor h) (headerMinor h)

/-- The words that carry one instruction: a request with the bundle beside it, if any, or, with no request word, a command
bundle alone (30_encoding.md R70). -/
structure Words where
  req : Option ReqWord
  cmd : Option Bundle
deriving DecidableEq, Repr

/-- The decoder over carried words. -/
def decode (w : Words) : Except DecodeError Instr :=
  match w.req, w.cmd with
  | some r, c => decodeReq r c
  | none, some c => .ok (Instr.ofCommand (decodeCmd c))
  | none, none => .error .nothingCarried

/-! ## Bytes -/

/-- The first `n` bytes of `w`, least significant first (20_memory.md R52). -/
def leBytes : Nat → Nat → List Byte
  | 0, _ => []
  | n + 1, w => BitVec.ofNat 8 w :: leBytes n (w / 256)

/-- The number a little-endian byte sequence carries (20_memory.md R52). -/
def ofLeBytes : List Byte → Nat
  | [] => 0
  | b :: bs => b.toNat + 256 * ofLeBytes bs

/-- The words a byte sequence carries, by its length: a REQ is 16 bytes, a CMD 44, a REQ followed by its CMD 60. DESIGN
CHOICE (log 5): the spec fixes the byte order of each word, not how two words follow each other. -/
def wordsOfBytes (bs : List Byte) : Except DecodeError Words :=
  if bs.length = 16 then .ok { req := some (BitVec.ofNat 128 (ofLeBytes bs)), cmd := none }
  else if bs.length = 44 then .ok { req := none, cmd := some (BitVec.ofNat 352 (ofLeBytes bs)) }
  else if bs.length = 60 then
    .ok { req := some (BitVec.ofNat 128 (ofLeBytes (bs.take 16))),
          cmd := some (BitVec.ofNat 352 (ofLeBytes (bs.drop 16))) }
  else .error .wrongLength

/-- The decoder over bytes. -/
def decodeBytes (bs : List Byte) : Except DecodeError Instr :=
  match wordsOfBytes bs with
  | .ok w => decode w
  | .error e => .error e

/-! ## The encoder -/

/-- The code of an axis, 3 for the idle slot or for no axis (30_encoding.md R71, 10_state.md R27). -/
def axisCode : Option Axis → BitVec 2
  | some .x => 0#2
  | some .y => 1#2
  | some .z => 2#2
  | none => 3#2

/-- The code of a tag (30_encoding.md R84). -/
def tagCode : ArgTag → BitVec 3
  | .x => 0#3
  | .y => 1#3
  | .z => 2#3
  | .f => 3#3
  | .p => 4#3
  | .r => 5#3
  | .reserved6 => 6#3
  | .reserved7 => 7#3

/-- A request word from its fields, reserved bits 0 (30_encoding.md R71). -/
def reqWord (op : BitVec 4) (axis : BitVec 2) (reg : BitVec 8) (index : BitVec 16) (now : Time) : ReqWord :=
  now ++ 0#32 ++ index ++ reg ++ 0#2 ++ axis ++ op

/-- A request word with an OP alone. -/
def opWord (op : BitVec 4) : ReqWord := reqWord op 0#2 0#8 0#16 0#64

/-- A slot word from its argument, reserved bits 0; an empty slot is all zeros (30_encoding.md R83). -/
def slotWord : Option Arg → SlotWord
  | none => 0#96
  | some a => a.float ++ 0#12 ++ 1#1 ++ tagCode a.tag ++ a.frac ++ a.int

/-- A header from its fields, reserved bits 0 (30_encoding.md R81). -/
def headerWord (mnem : BitVec 2) (major minor : BitVec 16) : Header := 0#16 ++ minor ++ major ++ 0#14 ++ mnem

/-- A bundle from its header and slots (30_encoding.md R80). -/
def bundleWord (h : Header) (args : Slots) : Bundle :=
  slotWord args.a2 ++ slotWord args.a1 ++ slotWord args.a0 ++ h

/-- No argument in any slot. -/
def noArgs : Slots := { a0 := none, a1 := none, a2 := none }

/-- The bundle of a command row (30_encoding.md R87). -/
def commandWord (mnem : BitVec 2) (major minor : BitVec 16) (args : Slots) : Words :=
  { req := none, cmd := some (bundleWord (headerWord mnem major minor) args) }

/-- The request of an operation with no bundle beside it. -/
def requestWord (r : ReqWord) : Words := { req := some r, cmd := none }

/-- The words of a well-formed instruction. -/
def encode : Instr → Words
  | .tick now => requestWord (reqWord 1#4 0#2 0#8 0#16 now)
  | .stepMonitor axis now => requestWord (reqWord 2#4 (axisCode axis) 0#8 0#16 now)
  | .poll offer => { req := some (opWord 3#4), cmd := offer }
  | .enqueue cmd => { req := some (opWord 4#4), cmd := some cmd }
  | .readReg reg => requestWord (reqWord 5#4 0#2 reg 0#16 0#64)
  | .readTable index => requestWord (reqWord 6#4 0#2 0#8 index 0#64)
  | .reservedOp0 => requestWord (opWord 0#4)
  | .reservedOp7 => requestWord (opWord 7#4)
  | .reservedOpHigh low => requestWord (opWord (1#1 ++ low))
  | .g0 args => commandWord 0#2 0#16 0#16 args
  | .g1 args => commandWord 0#2 1#16 0#16 args
  | .g20 => commandWord 0#2 20#16 0#16 noArgs
  | .g21 => commandWord 0#2 21#16 0#16 noArgs
  | .g90 => commandWord 0#2 90#16 0#16 noArgs
  | .g91 => commandWord 0#2 91#16 0#16 noArgs
  | .g92 args => commandWord 0#2 92#16 0#16 args
  | .m30 => commandWord 1#2 30#16 0#16 noArgs
  | .mOther major minor => commandWord 1#2 major minor noArgs
  | .gUnrecognized major minor => commandWord 0#2 major minor noArgs
  | .nUnrecognized major minor => commandWord 2#2 major minor noArgs
  | .unknownUnrecognized major minor => commandWord 3#2 major minor noArgs

/-- The bytes that carry the words: the request's 16 bytes, then the bundle's 44. -/
def bytesOfWords (w : Words) : List Byte :=
  (match w.req with | some r => leBytes 16 r.toNat | none => []) ++
  (match w.cmd with | some c => leBytes 44 c.toNat | none => [])

/-- The bytes of a well-formed instruction. -/
def encodeBytes (i : Instr) : List Byte := bytesOfWords (encode i)

/-! ## The response word as bytes -/

/-- The 8 bytes that carry a response word, least significant first (20_memory.md R52). -/
def bytesOfRsp (p : RspWord) : List Byte := leBytes 8 p.toNat

/-- The response word that 8 bytes carry (20_memory.md R52). -/
def rspOfBytes (bs : List Byte) : Except DecodeError RspWord :=
  if bs.length = 8 then .ok (BitVec.ofNat 64 (ofLeBytes bs)) else .error .wrongLength

/-! ## Table words -/

/-- Whether an opcode-table word of `nbits` bits is a command row's (its header, or more of the bundle) and not a request
row's. DESIGN CHOICE (log 6): the table's two formats share the low bits, so only the width tells them apart. -/
def isCommandWidth (nbits : Nat) : Bool := (32 < nbits && nbits ≤ 64) || (128 < nbits && nbits ≤ 352)

/-- The bytes of the instruction whose low `nbits` bits are `w`, every bit above them 0. An ENQUEUE carries a bundle
(30_encoding.md R70), a POLL one only where `nbits` reaches past the request word. -/
def tableBytes (nbits w : Nat) : List Byte :=
  let v := w % 2 ^ nbits
  if isCommandWidth nbits then leBytes 44 v
  else if v % 16 = 4 || (v % 16 = 3 && 128 < nbits) then leBytes 60 v
  else leBytes 16 v

/-- The instruction the decoder reads from a table row's word. -/
def decodeTableWord (nbits w : Nat) : Option Instr :=
  match decodeBytes (tableBytes nbits w) with
  | .ok i => some i
  | .error _ => none

end Sys2Proof
end

