-- ==== Sys2Proof/Config.lean ====
section
/-! DEFINITION. Config.lean: the configuration reset takes (00_scope.md R6) and the values the spec leaves OPEN.
The OPEN numbers are fields of `Config`, an argument of reset; the two OPEN functions are constants with no body. -/

namespace Sys2Proof

/-- Where the ramp table comes from (00_scope.md R6 `RAMP_TABLE`): the default `BuildTable(T0, N)`, or a table the
configuration supplies (40_ramp_table.md R100). -/
inductive RampSource where
  /-- `BuildTable(FIRST_STEP_DELAY, RAMP_LEN)`. -/
  | built (firstStepDelay : Word)
  /-- A table given entry by entry. -/
  | supplied (entries : List Word)
deriving DecidableEq, Repr

/-- The configuration, fixed at reset (00_scope.md R6). -/
structure Config where
  /-- `IDX_W`, the width of the ramp indices. -/
  idxW : Nat := 8
  /-- `RAMP_LEN` (N). -/
  rampLen : Nat := 256
  /-- `FIRST_STEP_DELAY` or the supplied `RAMP_TABLE`. -/
  ramp : RampSource
  /-- `SIGNAL_LENGTH`, in ticks. -/
  signalLength : Word
  /-- `RESOLUTION[a]`, steps per unit. -/
  resolution : PerAxis Word
  /-- `MAX_FEED_RATE`. -/
  maxFeedRate : Word
  /-- `DEFAULT_FEED_RATE`. -/
  defaultFeedRate : Word
deriving DecidableEq, Repr

/-- The configuration of `State.reset`. DESIGN CHOICE (log 1), unsafe: `IDX_W` = 8 and `RAMP_LEN` = 256 are the spec's defaults
(R6); the other values are OPEN in the spec and are taken here from its example configuration K1 (95_test_vectors.md
section 0). -/
def Config.default : Config where
  ramp := .built 40#32
  signalLength := 2#32
  resolution := ⟨1#32, 1#32, 1#32⟩
  maxFeedRate := 50000#32
  defaultFeedRate := 10000#32

/-- `ARG_TO_STEPS` of a fractional argument: OPEN in the spec (45_commands.md R202, 92_eei_decisions.md D19), a parameter
function of INT, FRAC, FLOAT and the axis's resolution. A free value (log 2): nothing constrains it. -/
opaque Config.argToSteps (int : Word) (frac : BitVec 16) (float : Word) (resolution : Word) : Int

/-- `ARG_TO_FEED` of a fractional or negative argument: OPEN in the spec (45_commands.md R203, 92_eei_decisions.md D20), a
parameter function of INT, FRAC and FLOAT that returns a u32. A free value (log 2): nothing constrains it. -/
opaque Config.argToFeed (int : Word) (frac : BitVec 16) (float : Word) : Word

end Sys2Proof
end

