-- ==== Sys2Proof/Machine/RampTable.lean ====
section
/-! DEFINITION. Machine/RampTable.lean: the ramp table's construction and the legality of a configuration
(40_ramp_table.md R100 to R107, 00_scope.md R7). -/

namespace Sys2Proof.Machine

open Sys2Proof

/-- `AccDelay(prev, n)`, for n ≥ 1, exact product and floor division (40_ramp_table.md R103). -/
def accDelay (prev n : Nat) : Nat := prev * (4 * n - 1) / (4 * n + 1)

/-- `DecDelay(prev, n)`, for n ≥ 1 (40_ramp_table.md R104). No operation of the block calls it. -/
def decDelay (prev n : Nat) : Nat := prev * (4 * n + 1) / (4 * n - 1)

/-- `count` entries of the table, the first of them `t` at index `i - 1` (40_ramp_table.md R101). -/
def buildFrom (t : Nat) (i : Nat) : Nat → List Word
  | 0 => []
  | count + 1 => BitVec.ofNat 32 t :: buildFrom (accDelay t i) (i + 1) count

/-- `BuildTable(T0, N)` (40_ramp_table.md R101). -/
def buildTable (firstStepDelay : Word) (n : Nat) : List Word := buildFrom firstStepDelay.toNat 1 n

/-- `RAMP_TABLE` of a configuration (00_scope.md R6). -/
def configTable (c : Config) : List Word :=
  match c.ramp with
  | .built t0 => buildTable t0 c.rampLen
  | .supplied entries => entries

/-- Each entry is at most its predecessor (40_ramp_table.md R100, 00_scope.md R7). -/
def nonIncreasing : List Word → Bool
  | a :: b :: rest => decide (b.toNat ≤ a.toNat) && nonIncreasing (b :: rest)
  | _ => true

/-- The configuration is legal (00_scope.md R7). `IDX_W` is 8 or 16 and `FIRST_STEP_DELAY` at least 1 by R6's table
(DEDUCED, log 4). -/
def legalConfig (c : Config) : Bool :=
  (c.idxW == 8 || c.idxW == 16) &&
  decide (1 ≤ c.rampLen) && decide (c.rampLen ≤ 2 ^ c.idxW) &&
  (match c.ramp with | .built t0 => decide (1 ≤ t0.toNat) | .supplied _ => true) &&
  (configTable c).length == c.rampLen && nonIncreasing (configTable c) &&
  decide (1 ≤ c.signalLength.toNat) &&
  decide (1 ≤ c.resolution.x.toNat) && decide (1 ≤ c.resolution.y.toNat) && decide (1 ≤ c.resolution.z.toNat)

end Sys2Proof.Machine
end

