-- ==== Sys2Proof/Machine/State.lean ====
section
/-! DEFINITION. Machine/State.lean: everything the block holds (10_state.md), what its operations put out, the host's
pending inputs, the state after reset, and why a step can stop. -/

namespace Sys2Proof.Machine

open Sys2Proof

/-- `m.mode` (10_state.md R25). -/
inductive Mode where
  | absolute | relative
deriving DecidableEq, Repr

/-- `ax[a].direction`, −1, 0 or +1 (10_state.md R21). -/
inductive Direction where
  | negative | still | positive
deriving DecidableEq, Repr

/-- `m.faultCause` (60_exceptions.md R240); codes 6 to 15 are never produced and have no constructor. -/
inductive FaultCause where
  | none | inchMode | zeroAxisSpeed | arithOverflow | timeOverflow | illegalOp
deriving DecidableEq, Repr

/-- The `code` of a `Diag` effect (60_exceptions.md R247). -/
inductive DiagCode where
  | unrecognizedCommand | fault
deriving DecidableEq, Repr

/-- An output effect (00_scope.md R11). -/
inductive Effect where
  | stepRise (a : Axis)
  | stepFall (a : Axis)
  | setDir (a : Axis) (forward : Bool)
  | diag (code : DiagCode) (id : BitVec 64)
deriving DecidableEq, Repr

/-- RSP.STATUS (30_encoding.md R74); 0b11 is never produced and has no constructor. -/
inductive RspStatus where
  | done | rejected | halted
deriving DecidableEq, Repr

/-- One axis unit: its AxisRamp, PulseScheduler and direction level (10_state.md R21, R22, R23). -/
structure AxisUnit where
  /-- i32. -/
  target : Word
  /-- i32; counts the steps scheduled (R31). -/
  position : Word
  direction : Direction
  /-- An index into the ramp table, below N in every reachable state (R21, R37). -/
  accIndex : Nat
  /-- An index into the ramp table, below N in every reachable state (R21, R37). -/
  accIndexFloor : Nat
  cruiseDelay : Word
  /-- 0 = idle, else the absolute tick of the next edge. -/
  nextEventTime : Time
  pulseHigh : Bool
  /-- true = level 1 = forward. -/
  dirLevel : Bool
deriving DecidableEq, Repr

/-- What the host puts on the block's inputs, one at a time: a request word with the bundle beside it, if any
(30_encoding.md R70), or the reset input with the configuration it takes (70_reset_and_hazards.md R270). -/
inductive HostInput where
  | request (req : ReqWord) (cmd : Option Bundle)
  | reset (config : Config)
deriving DecidableEq, Repr

/-- The state of the block and of its boundary. -/
structure State where
  /-- The ramp table `T[0 … N−1]` (10_state.md R28); N, which R29 holds read-only, is its length. -/
  table : List Word
  /-- `SIGNAL_LENGTH` (R29). -/
  signalLength : Word
  /-- `RESOLUTION[a]` (R29). -/
  resolution : PerAxis Word
  /-- `DEFAULT_FEED_RATE` (R29). -/
  defaultFeedRate : Word
  /-- `m.maxFeedRate` = `MAX_FEED_RATE` (R25, R29). -/
  maxFeedRate : Word
  /-- The three axis units. -/
  axes : PerAxis AxisUnit
  /-- `m.queue`, head first; whole bundles as accepted (R25). -/
  queue : List Bundle
  mode : Mode
  /-- i32 per axis (R25). -/
  homeOffset : PerAxis Word
  feedRate : Word
  /-- `m.rrSlot` (R26). -/
  rrSlot : BitVec 2
  /-- The fault record (R27); `faultAxis = none` is the code 3. -/
  halted : Bool
  faultCause : FaultCause
  faultAxis : Option Axis
  /-- The model's own (log 3): the effects of the last operation, in the order emitted (00_scope.md R11). -/
  effects : List Effect
  /-- The model's own (log 3): the RSP of the last request; none has been answered since reset where `none`. -/
  rsp : Option RspWord
  /-- The model's own (log 3): the host's inputs still to come, the next one first. -/
  inbox : List HostInput
deriving DecidableEq, Repr

/-- Why the model stops with a fault. A fault of the BLOCK is none of these: it is a next state with the fault record
written (60_exceptions.md R241). -/
inductive Fault where
  /-- Raised by the block's table read `T[i]` where i ≥ N, an entry that does not exist (40_ramp_table.md R105). Safe: the
  model stops where the spec gives no read. No state that meets `State.Inv` raises it. -/
  | tableIndexOutside
deriving DecidableEq, Repr

/-- Why the model has no meaning for an input. -/
inductive Refusal where
  /-- Raised by `exec` for an instruction with no meaning yet. Safe: the model stops. No arm of `exec` answers it. -/
  | notModelled (mnemonic : String)
  /-- Raised by `step` for an ENQUEUE request with no command bundle beside it, an input the interface does not have
  (30_encoding.md R70). Safe: the model stops. -/
  | enqueueWithoutCommand
  /-- Raised by `step` for a reset input with a configuration that is not legal: no state results (00_scope.md R7). Safe:
  the model stops. -/
  | illegalConfiguration
deriving DecidableEq, Repr

/-- An axis unit after reset (10_state.md R36). -/
def AxisUnit.reset : AxisUnit where
  target := 0#32
  position := 0#32
  direction := .still
  accIndex := 0
  accIndexFloor := 0
  cruiseDelay := 0#32
  nextEventTime := 0#64
  pulseHigh := false
  dirLevel := false

/-- The block after reset with configuration `c` (10_state.md R36, 70_reset_and_hazards.md R270), no input pending. -/
def State.ofConfig (c : Config) : State where
  table := configTable c
  signalLength := c.signalLength
  resolution := c.resolution
  defaultFeedRate := c.defaultFeedRate
  maxFeedRate := c.maxFeedRate
  axes := ⟨AxisUnit.reset, AxisUnit.reset, AxisUnit.reset⟩
  queue := []
  mode := .absolute
  homeOffset := ⟨0#32, 0#32, 0#32⟩
  feedRate := c.defaultFeedRate
  rrSlot := 0#2
  halted := false
  faultCause := .none
  faultAxis := none
  effects := []
  rsp := none
  inbox := []

/-- The machine right after reset, with the configuration log 1 names. -/
def State.reset : State := State.ofConfig Config.default

end Sys2Proof.Machine
end

