-- ==== Sys2Proof/Machine/Ops.lean ====
section
/-! DEFINITION. Machine/Ops.lean: the primitives of the spec's pseudocode (00_scope.md R9 to R11), the response word
(30_encoding.md R74), taking a fault and leaving the halted state (60_exceptions.md R241 to R245), and how an operation's
writes are committed. -/

namespace Sys2Proof.Machine

open Sys2Proof

/-! ## Reads and writes -/

/-- `N`, the number of table entries (10_state.md R28, R29). -/
def State.rampLen (s : State) : Nat := s.table.length

/-- `ax[a]` (00_scope.md R11). -/
def State.axis (s : State) (a : Axis) : AxisUnit := s.axes.get a

/-- `ax[a] <- u` (00_scope.md R11). -/
def State.setAxis (s : State) (a : Axis) (u : AxisUnit) : State := { s with axes := s.axes.set a u }

/-- `emit e` (00_scope.md R11). -/
def State.emit (s : State) (e : Effect) : State := { s with effects := s.effects ++ [e] }

/-- `m.feedRate <- v`. -/
def State.setFeedRate (s : State) (v : Word) : State := { s with feedRate := v }

/-- `m.mode <- v`. -/
def State.setMode (s : State) (v : Mode) : State := { s with mode := v }

/-- `m.homeOffset[a] <- v`. -/
def State.setHomeOffset (s : State) (a : Axis) (v : Word) : State := { s with homeOffset := s.homeOffset.set a v }

/-- `m.rrSlot <- v`. -/
def State.setRrSlot (s : State) (v : BitVec 2) : State := { s with rrSlot := v }

/-- `push(c)` (00_scope.md R11). -/
def State.push (s : State) (c : Bundle) : State := { s with queue := s.queue ++ [c] }

/-- `pop()` (00_scope.md R11). -/
def State.pop (s : State) : State := { s with queue := s.queue.drop 1 }

/-- `step_out[a]` (10_state.md R24). -/
def State.stepOut (s : State) (a : Axis) : Bool := (s.axis a).pulseHigh

/-- `dir_out[a]` (10_state.md R24). -/
def State.dirOut (s : State) (a : Axis) : Bool := (s.axis a).dirLevel

/-! ## Integers -/

/-- A direction as the integer it stands for (10_state.md R21). -/
def Direction.toInt : Direction → Int
  | .negative => -1
  | .still => 0
  | .positive => 1

/-- `sign(v)` (00_scope.md R10). -/
def signOf (v : Int) : Direction := if v < 0 then .negative else if 0 < v then .positive else .still

/-- The exact value lies in i32. -/
def inI32 (v : Int) : Bool := decide (-2147483648 ≤ v) && decide (v ≤ 2147483647)

/-- `isqrt` by base-4 digits, `fuel` of them. -/
def isqrtFuel : Nat → Nat → Nat
  | 0, _ => 0
  | fuel + 1, n =>
    let r := 2 * isqrtFuel fuel (n / 4)
    if (r + 1) * (r + 1) ≤ n then r + 1 else r

/-- `isqrt(n)`, the largest r with r·r ≤ n (00_scope.md R10). -/
def isqrt (n : Nat) : Nat := isqrtFuel (n.log2 + 1) n

/-! ## How an operation can end early -/

/-- What ends an operation before its last line. -/
inductive Stop where
  /-- `raise Fault(cause, axis)` (00_scope.md R11). -/
  | raised (cause : FaultCause) (axis : Option Axis)
  /-- The model's own stop. -/
  | outside (f : Fault)
deriving DecidableEq, Repr

/-- A micro-operation's result: the state it leaves, or what ended the operation. -/
abbrev Micro := Except Stop State

/-- `T[i]`, the block's own table read (40_ramp_table.md R105). -/
def tableRead (i : Nat) (s : State) : Except Stop Word :=
  match s.table[i]? with
  | some t => .ok t
  | none => .error (.outside .tableIndexOutside)

/-- `ax[a].nextEventTime <- t`, refusing a time at or past 2^64 (42_pulse_scheduler.md R134). -/
def schedule (a : Axis) (t : Nat) (s : State) : Micro :=
  if 2 ^ 64 ≤ t then .error (.raised .timeOverflow (some a))
  else .ok (s.setAxis a { s.axis a with nextEventTime := BitVec.ofNat 64 t })

/-! ## The fault record and the response word -/

/-- The code of a cause (60_exceptions.md R240). -/
def FaultCause.code : FaultCause → BitVec 4
  | .none => 0#4
  | .inchMode => 1#4
  | .zeroAxisSpeed => 2#4
  | .arithOverflow => 3#4
  | .timeOverflow => 4#4
  | .illegalOp => 5#4

/-- The code of a diagnostic (60_exceptions.md R247). -/
def DiagCode.code : DiagCode → Nat
  | .unrecognizedCommand => 1
  | .fault => 2

/-- `zext_64({axis, cause})` (60_exceptions.md R241). -/
def faultId (cause : FaultCause) (axis : Option Axis) : BitVec 64 := 0#58 ++ axisCode axis ++ cause.code

/-- The code of a status (30_encoding.md R74). -/
def RspStatus.code : RspStatus → BitVec 2
  | .done => 0#2
  | .rejected => 1#2
  | .halted => 2#2

/-- RSP from its fields (30_encoding.md R74). -/
def rspWord (status : RspStatus) (consumed : Bool) (data : Word) : RspWord :=
  data ++ 0#29 ++ BitVec.ofBool consumed ++ status.code

/-- The operation answers with an RSP. -/
def State.respond (s : State) (status : RspStatus) (consumed : Bool) (data : Word) : State :=
  { s with rsp := some (rspWord status consumed data) }

/-- An operation starts with no effect of its own emitted. -/
def State.begin (s : State) : State := { s with effects := [] }

/-- TAKING A FAULT (60_exceptions.md R241, R243): `s` is the state before the operation, which is kept but for the fault
record; the one effect is `Diag(FAULT, …)` and the answer is HALTED. -/
def takeFault (s : State) (cause : FaultCause) (axis : Option Axis) : State :=
  ({ s with halted := true, faultCause := cause, faultAxis := axis,
            effects := [.diag .fault (faultId cause axis)] } : State).respond .halted false 0#32

/-- LEAVING THE HALTED STATE: the reset input (60_exceptions.md R245, 70_reset_and_hazards.md R270, R273), none where the
configuration is not legal. The host's later inputs are not the block's to discard. -/
def resetInput (c : Config) (s : State) : Option State :=
  if legalConfig c then some { State.ofConfig c with inbox := s.inbox } else none

/-! ## Committing an operation -/

/-- The writes of a micro-operation begun at `s` are kept if it ran to its end and discarded if it raised a fault
(60_exceptions.md R243). -/
def commit (s : State) : Micro → Host.Outcome State Fault Refusal
  | .ok t => .next t
  | .error (.raised cause axis) => .next (takeFault s cause axis)
  | .error (.outside f) => .fault f

/-- A request that writes the block: while halted it changes nothing and answers HALTED (44_machine_ops.md R181). -/
def runRequest (body : State → Micro) (s : State) : Host.Outcome State Fault Refusal :=
  if s.halted then .next (s.begin.respond .halted false 0#32) else commit s.begin (body s.begin)

/-- A request that only reads: it answers while halted too (44_machine_ops.md R176, R177). -/
def runRead (value : State → Word) (s : State) : Host.Outcome State Fault Refusal :=
  .next (s.begin.respond (if s.halted then .halted else .done) false (value s))

/-- The effect of one decoded command by itself, as `Decode` gives it at the head of the queue (45_commands.md R200); a
halted block decodes nothing (60_exceptions.md R242). -/
def runCommand (body : State → Micro) (s : State) : Host.Outcome State Fault Refusal :=
  if s.halted then .next s.begin else commit s.begin (body s.begin)

end Sys2Proof.Machine
end

