-- ==== Sys2Proof/Machine/Flags.lean ====
section
/-! DEFINITION. Machine/Flags.lean: the predicates the rules read as flags (10_state.md R30) and the read-only status view
(10_state.md R32 to R35). -/

namespace Sys2Proof.Machine

open Sys2Proof

/-- `OnTarget` of one axis unit (43_axis.md R153). -/
def AxisUnit.onTarget (u : AxisUnit) : Bool := u.position == u.target && u.nextEventTime == 0#64

/-- `OnTarget(a)` (43_axis.md R153). -/
def State.onTarget (s : State) (a : Axis) : Bool := (s.axis a).onTarget

/-- All three axes are on target (44_machine_ops.md R174). -/
def State.allOnTarget (s : State) : Bool := s.onTarget .x && s.onTarget .y && s.onTarget .z

/-- A command is executing (10_state.md R30). -/
def State.executing (s : State) : Bool := decide (1 ≤ s.queue.length)

/-- `m.mode` as STATUS shows it (10_state.md R34). -/
def Mode.bit : Mode → Bool
  | .absolute => false
  | .relative => true

/-- STATUS, register 0x00 (10_state.md R34). -/
def statusReg (s : State) : Word :=
  0#17 ++ s.rrSlot ++
  BitVec.ofBool (s.dirOut .z) ++ BitVec.ofBool (s.dirOut .y) ++ BitVec.ofBool (s.dirOut .x) ++
  BitVec.ofBool (s.stepOut .z) ++ BitVec.ofBool (s.stepOut .y) ++ BitVec.ofBool (s.stepOut .x) ++
  BitVec.ofBool (s.onTarget .z) ++ BitVec.ofBool (s.onTarget .y) ++ BitVec.ofBool (s.onTarget .x) ++
  BitVec.ofBool s.mode.bit ++ BitVec.ofNat 2 s.queue.length ++ BitVec.ofBool s.halted

/-- FAULT, register 0x01 (10_state.md R35). -/
def faultReg (s : State) : Word := 0#26 ++ axisCode s.faultAxis ++ s.faultCause.code

/-- The eight registers of one axis, by their offset (10_state.md R33). -/
def axisReg (u : AxisUnit) (offset : Nat) : Word :=
  match offset with
  | 0 => u.position
  | 1 => u.target
  | 2 => BitVec.ofInt 32 u.direction.toInt
  | 3 => BitVec.ofNat 32 u.accIndex
  | 4 => BitVec.ofNat 32 u.accIndexFloor
  | 5 => u.cruiseDelay
  | 6 => u.nextEventTime.extractLsb' 0 32
  | 7 => u.nextEventTime.extractLsb' 32 32
  | _ => 0#32

/-- `StatusView(r)` (10_state.md R33): 0 for every number the map does not list (R32). -/
def statusView (s : State) (reg : BitVec 8) : Word :=
  let n := reg.toNat
  if n = 0 then statusReg s
  else if n = 1 then faultReg s
  else if n = 2 then s.feedRate
  else if n = 3 then s.maxFeedRate
  else if n = 4 then s.defaultFeedRate
  else if n = 5 then s.signalLength
  else if n = 6 then BitVec.ofNat 32 s.rampLen
  else if n = 8 then s.homeOffset.x
  else if n = 9 then s.homeOffset.y
  else if n = 10 then s.homeOffset.z
  else if n = 11 then s.resolution.x
  else if n = 12 then s.resolution.y
  else if n = 13 then s.resolution.z
  else if 16 ≤ n ∧ n < 24 then axisReg (s.axis .x) (n - 16)
  else if 24 ≤ n ∧ n < 32 then axisReg (s.axis .y) (n - 24)
  else if 32 ≤ n ∧ n < 40 then axisReg (s.axis .z) (n - 32)
  else 0#32

end Sys2Proof.Machine
end

