-- ==== Sys2Proof/Machine/AxisRamp.lean ====
section
/-! DEFINITION. Machine/AxisRamp.lean: the per-axis ramp state machine (41_axis_ramp.md R110 to R117). -/

namespace Sys2Proof.Machine

open Sys2Proof

/-- `FloorIndex(x)`: the first index whose delay is at most x, N − 1 if there is none (41_axis_ramp.md R111). -/
def floorIndex (table : List Word) (x : Word) : Nat :=
  (table.findIdx? (fun t => decide (t.toNat ≤ x.toNat))).getD (table.length - 1)

/-- `target - position`, exact (41_axis_ramp.md R110). -/
def AxisUnit.displacement (u : AxisUnit) : Int := u.target.toInt - u.position.toInt

/-- `RampSetTarget` on one unit (41_axis_ramp.md R110); the position stays. -/
def AxisUnit.rampSetTarget (u : AxisUnit) (table : List Word) (target cruise : Word) (arrival : Option Word) : AxisUnit :=
  { u with
    target := target
    direction := signOf (target.toInt - u.position.toInt)
    cruiseDelay := cruise
    accIndexFloor := match arrival with | none => 0 | some x => floorIndex table x
    accIndex := 0 }

/-- `RampSetTarget(a, target, cruise, arrival)` (41_axis_ramp.md R110). -/
def rampSetTarget (a : Axis) (target cruise : Word) (arrival : Option Word) (s : State) : State :=
  s.setAxis a ((s.axis a).rampSetTarget s.table target cruise arrival)

/-- `position <- position + direction` (41_axis_ramp.md R113). The sum stays in i32 in every state that meets `State.Inv`,
whose direction points at the target (DEDUCED, log 7). -/
def AxisUnit.advance (u : AxisUnit) : AxisUnit :=
  { u with position := u.position + BitVec.ofInt 32 u.direction.toInt }

/-- `rem`, the distance left (41_axis_ramp.md R113). -/
def AxisUnit.remaining (u : AxisUnit) : Nat := u.displacement.natAbs

/-- The deceleration test `rem <= k - f - 1` on integers (41_axis_ramp.md R113, R115). -/
def AxisUnit.mustDecelerate (u : AxisUnit) : Bool :=
  decide ((u.remaining : Int) ≤ (u.accIndex : Int) - (u.accIndexFloor : Int) - 1)

/-- `RampNext(a)`: the delay before the next step, or `none` at the target (41_axis_ramp.md R112, R113). The policies are
tested in the order of R114. -/
def rampNext (a : Axis) (s : State) : Except Stop (Option Word × State) :=
  if (s.axis a).position = (s.axis a).target then .ok (none, s)
  else
    let u := (s.axis a).advance
    if u.mustDecelerate then do
      let d ← tableRead (u.accIndex - 1) s
      pure (some d, s.setAxis a { u with accIndex := u.accIndex - 1 })
    else do
      let d ← tableRead u.accIndex s
      if d.toNat ≤ u.cruiseDelay.toNat then pure (some u.cruiseDelay, s.setAxis a u)
      else pure (some d, s.setAxis a { u with accIndex := min (u.accIndex + 1) (s.rampLen - 1) })

/-- The delays of `n` successive calls of `RampNext(a)` (41_axis_ramp.md R118, R119); a call that finds no step adds none. -/
def rampDelays (a : Axis) : Nat → State → Except Stop (List Word × State)
  | 0, s => .ok ([], s)
  | n + 1, s => do
    let r ← rampNext a s
    let rest ← rampDelays a n r.2
    pure (r.1.toList ++ rest.1, rest.2)

end Sys2Proof.Machine
end

