-- ==== Sys2Proof/Machine/PulseScheduler.lean ====
section
/-! DEFINITION. Machine/PulseScheduler.lean: the two events of a step pulse (42_pulse_scheduler.md R130 to R134). -/

namespace Sys2Proof.Machine

open Sys2Proof

/-- `ax[a].pulseHigh <- v`. -/
def State.setPulse (s : State) (a : Axis) (v : Bool) : State := s.setAxis a { s.axis a with pulseHigh := v }

/-- `ax[a].nextEventTime <- 0`, idle (10_state.md R22). -/
def State.setIdle (s : State) (a : Axis) : State := s.setAxis a { s.axis a with nextEventTime := 0#64 }

/-- The low interval `max(d − SIGNAL_LENGTH, SIGNAL_LENGTH)` on integers (42_pulse_scheduler.md R133): a difference below
zero is below `SIGNAL_LENGTH` too, so truncating it at zero changes nothing. -/
def lowInterval (d signalLength : Word) : Nat := max (d.toNat - signalLength.toNat) signalLength.toNat

/-- `SchedRise(a, now)` (42_pulse_scheduler.md R130). -/
def schedRise (a : Axis) (now : Time) (s : State) : Micro := do
  let t ← schedule a (now.toNat + s.signalLength.toNat) (s.setPulse a true)
  pure (t.emit (.stepRise a))

/-- `SchedFall(a, now)` (42_pulse_scheduler.md R131). -/
def schedFall (a : Axis) (now : Time) (s : State) : Micro := do
  let r ← rampNext a ((s.setPulse a false).emit (.stepFall a))
  match r.1 with
  | some d => schedule a (now.toNat + lowInterval d s.signalLength) r.2
  | none => pure (r.2.setIdle a)

end Sys2Proof.Machine
end

