-- ==== Sys2Proof/Machine/AxisUnit.lean ====
section
/-! DEFINITION. Machine/AxisUnit.lean: the per-axis contract (43_axis.md R150 to R154). -/

namespace Sys2Proof.Machine

open Sys2Proof

/-- `CruiseDelayOf(speed)`, for speed ≥ 1 (43_axis.md R151); the quotient fits u32. -/
def cruiseDelayOf (speed : Nat) : Word := BitVec.ofNat 32 (1000000 / speed)

/-- A step pin that is high falls, and that is reported; the scheduler is idle afterwards (43_axis.md R150). -/
def dropPulse (a : Axis) (s : State) : State :=
  (if (s.axis a).pulseHigh then (s.setPulse a false).emit (.stepFall a) else s).setIdle a

/-- The direction pin takes the sign of a non-zero displacement (43_axis.md R150, 10_state.md R23). -/
def setDirection (a : Axis) (disp : Int) (s : State) : State :=
  if disp = 0 then s
  else (s.setAxis a { s.axis a with dirLevel := decide (0 < disp) }).emit (.setDir a (decide (0 < disp)))

/-- `AxisSetTarget(a, target, speed)` (43_axis.md R150). -/
def axisSetTarget (a : Axis) (target : Word) (speed : Nat) (s : State) : Micro :=
  if target = (s.axis a).target then .ok s
  else if speed = 0 then .error (.raised .zeroAxisSpeed (some a))
  else
    let disp := target.toInt - (s.axis a).position.toInt
    .ok (setDirection a disp (dropPulse a (rampSetTarget a target (cruiseDelayOf speed) none s)))

/-- The priming of a move (43_axis.md R152): the first delay is measured from `now`, and no edge is emitted. The `none`
case does not arise, for the axis is not at its target (R152). -/
def prime (a : Axis) (now : Time) (s : State) : Micro := do
  let r ← rampNext a s
  match r.1 with
  | some d => schedule a (max (now.toNat + d.toNat) 1) r.2
  | none => pure r.2

/-- `AxisPoll(a, now)` (43_axis.md R152, 42_pulse_scheduler.md R132). -/
def axisPoll (a : Axis) (now : Time) (s : State) : Micro :=
  if s.onTarget a then .ok s
  else if (s.axis a).nextEventTime = 0#64 then prime a now s
  else if now.toNat < (s.axis a).nextEventTime.toNat then .ok s
  else if (s.axis a).pulseHigh then schedFall a now s
  else schedRise a now s

end Sys2Proof.Machine
end

