-- ==== Sys2Proof/Machine/Operands.lean ====
section
/-! DEFINITION. Machine/Operands.lean: a command's arguments and how they become steps and feed rates (45_commands.md R201
to R203). -/

namespace Sys2Proof.Machine

open Sys2Proof

/-- The record `g` of `Gather` (45_commands.md R201). -/
structure Gathered where
  axis : PerAxis (Option Arg)
  f : Option Arg
deriving DecidableEq, Repr

/-- Nothing gathered yet. -/
def Gathered.empty : Gathered := { axis := ⟨none, none, none⟩, f := none }

/-- One slot of `Gather`'s loop; P, R and the reserved tags are skipped (45_commands.md R201). -/
def gatherSlot (g : Gathered) (slot : Option Arg) : Gathered :=
  match slot with
  | none => g
  | some a =>
    match a.tag with
    | .x => { g with axis := g.axis.set .x (some a) }
    | .y => { g with axis := g.axis.set .y (some a) }
    | .z => { g with axis := g.axis.set .z (some a) }
    | .f => { g with f := some a }
    | .p => g
    | .r => g
    | .reserved6 => g
    | .reserved7 => g

/-- `Gather(c)`: the slots in order 0, 1, 2, so the later slot of a repeated tag wins (45_commands.md R201). -/
def gather (args : Slots) : Gathered :=
  gatherSlot (gatherSlot (gatherSlot Gathered.empty args.a0) args.a1) args.a2

/-- `ARG_TO_STEPS(s, a)` with axis a's resolution (45_commands.md R202). -/
def argToSteps (arg : Arg) (resolution : Word) : Int :=
  if arg.frac = 0#16 then arg.int.toInt * resolution.toNat
  else Config.argToSteps arg.int arg.frac arg.float resolution

/-- `ARG_TO_FEED(s)` (45_commands.md R203). -/
def argToFeed (arg : Arg) : Word :=
  if arg.frac = 0#16 ∧ 0 ≤ arg.int.toInt then arg.int else Config.argToFeed arg.int arg.frac arg.float

end Sys2Proof.Machine
end

