-- ==== Sys2Proof/Machine/Commands.lean ====
section
/-! DEFINITION. Machine/Commands.lean: what each decoded command does (45_commands.md R200 to R218), as the micro-operation
`Decode` runs inside POLL and ENQUEUE, and as the meaning of the command's row of the opcode table. -/

namespace Sys2Proof.Machine

open Sys2Proof

/-! ## The coordinated move -/

/-- The integer a named axis resolves to, before its range check (45_commands.md R206 step 1, R207). -/
def namedTarget (arg : Arg) (a : Axis) (s : State) : Int :=
  let v := argToSteps arg (s.resolution.get a)
  match s.mode with
  | .relative => (s.axis a).position.toInt + v
  | .absolute => v + (s.homeOffset.get a).toInt

/-- The resolved target of one axis (45_commands.md R206 step 1, R207). -/
def resolveTarget (g : Gathered) (a : Axis) (s : State) : Except Stop Int :=
  match g.axis.get a with
  | none => .ok (s.axis a).position.toInt
  | some arg =>
    if inI32 (namedTarget arg a s) then .ok (namedTarget arg a s) else .error (.raised .arithOverflow (some a))

/-- The resolved targets, in the order X, Y, Z (45_commands.md R207). -/
def resolveTargets (g : Gathered) (s : State) : Except Stop (PerAxis Int) := do
  let tx ← resolveTarget g .x s
  let ty ← resolveTarget g .y s
  let tz ← resolveTarget g .z s
  pure ⟨tx, ty, tz⟩

/-- `disp[a]`, exact (45_commands.md R206). -/
def displacement (tgt : PerAxis Int) (s : State) (a : Axis) : Int := tgt.get a - (s.axis a).position.toInt

/-- `dist = isqrt(Σ disp²)` (45_commands.md R208). -/
def moveDistance (tgt : PerAxis Int) (s : State) : Nat :=
  isqrt ((displacement tgt s .x).natAbs ^ 2 + (displacement tgt s .y).natAbs ^ 2 + (displacement tgt s .z).natAbs ^ 2)

/-- `spd[a] = (S·|disp[a]|) / dist` (45_commands.md R209). -/
def allocatedSpeed (speed : Word) (disp : Int) (dist : Nat) : Nat := speed.toNat * disp.natAbs / dist

/-- The check of one moving axis's speed before any write (45_commands.md R209). -/
def checkSpeed (speed : Word) (dist : Nat) (tgt : PerAxis Int) (s : State) (a : Axis) : Except Stop Unit :=
  if displacement tgt s a ≠ 0 ∧ allocatedSpeed speed (displacement tgt s a) dist = 0 then
    .error (.raised .zeroAxisSpeed (some a))
  else .ok ()

/-- The commit of one axis, which moves only if its displacement is not zero (45_commands.md R209). -/
def commitAxis (speed : Word) (dist : Nat) (tgt : PerAxis Int) (a : Axis) (s : State) : Micro :=
  if displacement tgt s a ≠ 0 then
    axisSetTarget a (BitVec.ofInt 32 (tgt.get a)) (allocatedSpeed speed (displacement tgt s a) dist) s
  else .ok s

/-- Steps 3 and 4 of `MoveCommand` (45_commands.md R206, R209): every speed is checked, then the feed rate and the moving
axes are written in the order X, Y, Z. -/
def startMove (tgt : PerAxis Int) (dist : Nat) (speed newFeed : Word) (s : State) : Micro := do
  checkSpeed speed dist tgt s .x
  checkSpeed speed dist tgt s .y
  checkSpeed speed dist tgt s .z
  let sx ← commitAxis speed dist tgt .x (s.setFeedRate newFeed)
  let sy ← commitAxis speed dist tgt .y sx
  commitAxis speed dist tgt .z sy

/-- `MoveCommand(g, S, newFeed)` (45_commands.md R206); a degenerate move only writes the feed rate (R208). -/
def moveCommand (g : Gathered) (speed newFeed : Word) (s : State) : Micro := do
  let tgt ← resolveTargets g s
  let dist := moveDistance tgt s
  if speed = 0#32 ∨ dist = 0 then pure (s.setFeedRate newFeed)
  else startMove tgt dist speed newFeed s

/-! ## The commands -/

/-- G0 (45_commands.md R204). -/
def cmdG0 (args : Slots) (s : State) : Micro :=
  let g := gather args
  match g.f with
  | some f => moveCommand g (argToFeed f) (argToFeed f) s
  | none => moveCommand g s.maxFeedRate s.feedRate s

/-- G1 (45_commands.md R205). -/
def cmdG1 (args : Slots) (s : State) : Micro :=
  let g := gather args
  let newFeed := match g.f with
    | some f => argToFeed f
    | none => s.feedRate
  moveCommand g newFeed newFeed s

/-- One axis of G92 (45_commands.md R211). -/
def offsetAxis (g : Gathered) (a : Axis) (s : State) : Micro :=
  match g.axis.get a with
  | none => .ok s
  | some arg =>
    let v := argToSteps arg (s.resolution.get a)
    if inI32 v then .ok (s.setHomeOffset a (BitVec.ofInt 32 v)) else .error (.raised .arithOverflow (some a))

/-- G92 (45_commands.md R211). -/
def cmdG92 (args : Slots) (s : State) : Micro := do
  let g := gather args
  let sx ← offsetAxis g .x s
  let sy ← offsetAxis g .y sx
  offsetAxis g .z sy

/-- G90 (45_commands.md R212). -/
def cmdG90 (s : State) : Micro := .ok (s.setMode .absolute)

/-- G91 (45_commands.md R213). -/
def cmdG91 (s : State) : Micro := .ok (s.setMode .relative)

/-- G20 (45_commands.md R214). -/
def cmdG20 (_ : State) : Micro := .error (.raised .inchMode none)

/-- G21 (45_commands.md R215). -/
def cmdG21 (s : State) : Micro := .ok s

/-- M30 (45_commands.md R216). -/
def cmdM30 (s : State) : Micro := .ok (s.setFeedRate s.maxFeedRate)

/-- Any other M-code (45_commands.md R217). -/
def cmdMOther (s : State) : Micro := .ok s

/-- `c.H & 0x0000_FFFF_FFFF_0003` of an unrecognized command (45_commands.md R218), from the header's fields. -/
def unrecognizedId (mnem : BitVec 2) (major minor : BitVec 16) : BitVec 64 := headerWord mnem major minor

/-- An unrecognized command is reported and does nothing else (45_commands.md R218). -/
def cmdUnrecognized (mnem : BitVec 2) (major minor : BitVec 16) (s : State) : Micro :=
  .ok (s.emit (.diag .unrecognizedCommand (unrecognizedId mnem major minor)))

/-- The command's effect (45_commands.md R200). -/
def commandEffect : Command → State → Micro
  | .g0 args, s => cmdG0 args s
  | .g1 args, s => cmdG1 args s
  | .g20, s => cmdG20 s
  | .g21, s => cmdG21 s
  | .g90, s => cmdG90 s
  | .g91, s => cmdG91 s
  | .g92 args, s => cmdG92 args s
  | .m30, s => cmdM30 s
  | .mOther _ _, s => cmdMOther s
  | .gUnrecognized major minor, s => cmdUnrecognized 0#2 major minor s
  | .nUnrecognized major minor, s => cmdUnrecognized 2#2 major minor s
  | .unknownUnrecognized major minor, s => cmdUnrecognized 3#2 major minor s

/-- `Decode(c)` (45_commands.md R200). -/
def decodeCommand (c : Bundle) (s : State) : Micro := commandEffect (decodeCmd c) s

/-- `Decode(Q[0])` (44_machine_ops.md R172 to R174); an empty queue has no head and nothing is decoded. -/
def decodeHead (s : State) : Micro :=
  match s.queue with
  | c :: _ => decodeCommand c s
  | [] => .ok s

/-! ## The meanings of the command rows -/

/-- G0. -/
def execG0 (args : Slots) (s : State) : Host.Outcome State Fault Refusal := runCommand (cmdG0 args) s

/-- G1. -/
def execG1 (args : Slots) (s : State) : Host.Outcome State Fault Refusal := runCommand (cmdG1 args) s

/-- G20. -/
def execG20 (s : State) : Host.Outcome State Fault Refusal := runCommand cmdG20 s

/-- G21. -/
def execG21 (s : State) : Host.Outcome State Fault Refusal := runCommand cmdG21 s

/-- G90. -/
def execG90 (s : State) : Host.Outcome State Fault Refusal := runCommand cmdG90 s

/-- G91. -/
def execG91 (s : State) : Host.Outcome State Fault Refusal := runCommand cmdG91 s

/-- G92. -/
def execG92 (args : Slots) (s : State) : Host.Outcome State Fault Refusal := runCommand (cmdG92 args) s

/-- M30. -/
def execM30 (s : State) : Host.Outcome State Fault Refusal := runCommand cmdM30 s

/-- Any other M-code; its numbers have no effect (45_commands.md R217). -/
def execMOther (_major _minor : BitVec 16) (s : State) : Host.Outcome State Fault Refusal := runCommand cmdMOther s

/-- Any other G-code. -/
def execGUnrecognized (major minor : BitVec 16) (s : State) : Host.Outcome State Fault Refusal :=
  runCommand (cmdUnrecognized 0#2 major minor) s

/-- Any N. -/
def execNUnrecognized (major minor : BitVec 16) (s : State) : Host.Outcome State Fault Refusal :=
  runCommand (cmdUnrecognized 2#2 major minor) s

/-- Any Unknown. -/
def execUnknownUnrecognized (major minor : BitVec 16) (s : State) : Host.Outcome State Fault Refusal :=
  runCommand (cmdUnrecognized 3#2 major minor) s

end Sys2Proof.Machine
end

