-- ==== Sys2Proof/Machine/Interface.lean ====
section
/-! DEFINITION. Machine/Interface.lean: the interface operations a host issues (44_machine_ops.md R170 to R181). -/

namespace Sys2Proof.Machine

open Sys2Proof

/-- The slot a round-robin counter selects (10_state.md R26). -/
def slotAxis (slot : BitVec 2) : Option Axis := axisOfCode slot

/-- `StepMonitorBody(axis, now)` (44_machine_ops.md R171). -/
def stepMonitorBody (axis : Option Axis) (now : Time) (s : State) : Micro :=
  match axis with
  | none => .ok s
  | some a => if s.executing then axisPoll a now s else .ok s

/-- TICK past its halted test (44_machine_ops.md R170). -/
def tickBody (now : Time) (s : State) : Micro := do
  let t ← stepMonitorBody (slotAxis s.rrSlot) now (s.setRrSlot (s.rrSlot + 1#2))
  pure (t.respond .done false 0#32)

/-- STEP_MONITOR past its halted test (44_machine_ops.md R171). -/
def stepMonitorOp (axis : Option Axis) (now : Time) (s : State) : Micro := do
  let t ← stepMonitorBody axis now s
  pure (t.respond .done false 0#32)

/-- `push(c)`, and the decoding of a command that finds the queue empty (44_machine_ops.md R172, R173). -/
def intake (c : Bundle) (s : State) : Micro :=
  let t := s.push c
  if t.queue.length = 1 then decodeHead t else .ok t

/-- The retirement check of a POLL (44_machine_ops.md R172, R174): at most one command retires, and the next one is
decoded. -/
def retire (s : State) : Micro :=
  if s.executing && s.allOnTarget then decodeHead s.pop else .ok s

/-- POLL takes its offer (44_machine_ops.md R175). -/
def takesOffer (offer : Option Bundle) (s : State) : Bool := offer.isSome && decide (s.queue.length < 2)

/-- The intake of a POLL (44_machine_ops.md R172). -/
def pollIntake (offer : Option Bundle) (s : State) : Micro :=
  match offer with
  | some c => if s.queue.length < 2 then intake c s else .ok s
  | none => .ok s

/-- POLL past its halted test (44_machine_ops.md R172): intake, then retirement. -/
def pollBody (offer : Option Bundle) (s : State) : Micro := do
  let taken ← pollIntake offer s
  let t ← retire taken
  pure (t.respond .done (takesOffer offer s) 0#32)

/-- ENQUEUE past its halted test (44_machine_ops.md R173). A queue longer than 2 arises in no state that meets `State.Inv`;
it is full here too. -/
def enqueueBody (c : Bundle) (s : State) : Micro :=
  if 2 ≤ s.queue.length then .ok (s.respond .rejected false 0#32)
  else do
    let t ← intake c s
    pure (t.respond .done false 0#32)

/-- A reserved OP past its halted test (44_machine_ops.md R179). -/
def reservedBody (_ : State) : Micro := .error (.raised .illegalOp none)

/-! ## The meanings of the request rows -/

/-- TICK (44_machine_ops.md R170). -/
def execTick (now : Time) (s : State) : Host.Outcome State Fault Refusal := runRequest (tickBody now) s

/-- STEP_MONITOR (44_machine_ops.md R171). -/
def execStepMonitor (axis : Option Axis) (now : Time) (s : State) : Host.Outcome State Fault Refusal :=
  runRequest (stepMonitorOp axis now) s

/-- POLL (44_machine_ops.md R172). -/
def execPoll (offer : Option Bundle) (s : State) : Host.Outcome State Fault Refusal := runRequest (pollBody offer) s

/-- ENQUEUE (44_machine_ops.md R173). -/
def execEnqueue (cmd : Bundle) (s : State) : Host.Outcome State Fault Refusal := runRequest (enqueueBody cmd) s

/-- READ_REG (44_machine_ops.md R176). -/
def execReadReg (reg : BitVec 8) (s : State) : Host.Outcome State Fault Refusal :=
  runRead (fun t => statusView t reg) s

/-- READ_TABLE (44_machine_ops.md R177): an index of N or more reads 0. -/
def execReadTable (index : BitVec 16) (s : State) : Host.Outcome State Fault Refusal :=
  runRead (fun t => t.table.getD index.toNat 0#32) s

/-- Reserved OP 0x0 (44_machine_ops.md R179). -/
def execReservedOp0 (s : State) : Host.Outcome State Fault Refusal := runRequest reservedBody s

/-- Reserved OP 0x7 (44_machine_ops.md R179). -/
def execReservedOp7 (s : State) : Host.Outcome State Fault Refusal := runRequest reservedBody s

/-- Reserved OP 0x8 to 0xF (44_machine_ops.md R179); all eight act alike. -/
def execReservedOpHigh (_low : BitVec 3) (s : State) : Host.Outcome State Fault Refusal := runRequest reservedBody s

end Sys2Proof.Machine
end

