-- ==== Sys2Proof/Machine/Dispatch.lean ====
section
/-! DEFINITION. Machine/Dispatch.lean: one arm per instruction. -/

namespace Sys2Proof.Machine

open Sys2Proof

/-- The meaning of each instruction. -/
def exec (i : Instr) (s : State) : Host.Outcome State Fault Refusal :=
  match i with
  | .tick now => Sys2Proof.Machine.execTick now s
  | .stepMonitor axis now => Sys2Proof.Machine.execStepMonitor axis now s
  | .poll offer => Sys2Proof.Machine.execPoll offer s
  | .enqueue cmd => Sys2Proof.Machine.execEnqueue cmd s
  | .readReg reg => Sys2Proof.Machine.execReadReg reg s
  | .readTable index => Sys2Proof.Machine.execReadTable index s
  | .reservedOp0 => Sys2Proof.Machine.execReservedOp0 s
  | .reservedOp7 => Sys2Proof.Machine.execReservedOp7 s
  | .reservedOpHigh low => Sys2Proof.Machine.execReservedOpHigh low s
  | .g0 args => Sys2Proof.Machine.execG0 args s
  | .g1 args => Sys2Proof.Machine.execG1 args s
  | .g20 => Sys2Proof.Machine.execG20 s
  | .g21 => Sys2Proof.Machine.execG21 s
  | .g90 => Sys2Proof.Machine.execG90 s
  | .g91 => Sys2Proof.Machine.execG91 s
  | .g92 args => Sys2Proof.Machine.execG92 args s
  | .m30 => Sys2Proof.Machine.execM30 s
  | .mOther major minor => Sys2Proof.Machine.execMOther major minor s
  | .gUnrecognized major minor => Sys2Proof.Machine.execGUnrecognized major minor s
  | .nUnrecognized major minor => Sys2Proof.Machine.execNUnrecognized major minor s
  | .unknownUnrecognized major minor => Sys2Proof.Machine.execUnknownUnrecognized major minor s

end Sys2Proof.Machine
end

