-- ==== Sys2Proof/Machine/Fetch.lean ====
section
/-! DEFINITION. Machine/Fetch.lean: how the next input becomes an instruction, and how a word of the opcode table is put
where the next step finds it. -/

namespace Sys2Proof.Machine

open Sys2Proof

/-- The instruction of a request (30_encoding.md R70 to R73), or why there is none. Of the decoder's errors only the missing
bundle can arise from a request word. -/
def fetchInstr (r : ReqWord) (cmd : Option Bundle) : Except Refusal Instr :=
  match decodeReq r cmd with
  | .ok i => .ok i
  | .error _ => .error .enqueueWithoutCommand

/-- The block with the input taken off its boundary. -/
def State.takeInput (s : State) (rest : List HostInput) : State := { s with inbox := rest }

/-- The words of a table row as the next input. A request word stands first in the inbox. A bare command bundle is run by
the block only when it reaches the head of the queue (20_memory.md R60), so it comes as an ENQUEUE into an empty queue
(log 6). -/
def placeWords (w : Words) (s : State) : State :=
  match w.req, w.cmd with
  | some r, c => { s with inbox := .request r c :: s.inbox }
  | none, some c => { s with inbox := .request (opWord 4#4) (some c) :: s.inbox, queue := [] }
  | none, none => s

/-- A table word placed where the next step fetches. -/
def placeTableWord (nbits w : Nat) (s : State) : State :=
  match wordsOfBytes (tableBytes nbits w) with
  | .ok words => placeWords words s
  | .error _ => s

end Sys2Proof.Machine
end

