-- ==== Sys2Proof/Machine/Step.lean ====
section
/-! DEFINITION. Machine/Step.lean: one step takes the host's next input (20_memory.md R57: one operation is one transition). -/

namespace Sys2Proof.Machine

open Sys2Proof

/-- One step. With no input pending the block does nothing and keeps all state (60_exceptions.md R255); the reset input
resets it (70_reset_and_hazards.md R270); a request runs the instruction it decodes to. -/
def step (s : State) : Host.Outcome State Fault Refusal :=
  match s.inbox with
  | [] => .next s
  | .reset c :: rest =>
    match resetInput c (s.takeInput rest) with
    | some t => .next t
    | none => .refused .illegalConfiguration
  | .request r cmd :: rest =>
    match fetchInstr r cmd with
    | .ok i => exec i (s.takeInput rest)
    | .error e => .refused e

/-- `s` with a table row's word placed where `step` fetches its next instruction. -/
def State.withFetchWord (s : State) (nbits w : Nat) : State := placeTableWord nbits w s

end Sys2Proof.Machine
end

