-- ==== Sys2Proof/Safety.lean ====
section
/-! DEFINITION. Safety.lean: the invariants the rules keep (10_state.md R37, 44_machine_ops.md R178), the states a run
reaches, and what a safe step is. -/

namespace Sys2Proof.Machine

open Sys2Proof

/-- One axis unit over a table of `n` entries: its indices are valid (R37 item 1), a high pulse has its fall scheduled (R37
item 2), and off the target the direction points at it (R110, R113). -/
structure AxisUnit.Inv (n : Nat) (u : AxisUnit) : Prop where
  accIndex_lt : u.accIndex < n
  accIndexFloor_lt : u.accIndexFloor < n
  pulse_scheduled : u.pulseHigh = true → u.nextEventTime ≠ 0#64
  direction_points : u.position ≠ u.target → u.direction = signOf u.displacement

/-- The values a fault record takes: NONE with no axis while running, and while halted a cause with the axis column of
60_exceptions.md R240. -/
def faultRecordLegal : Bool → FaultCause → Option Axis → Bool
  | false, .none, none => true
  | true, .inchMode, none => true
  | true, .zeroAxisSpeed, some _ => true
  | true, .arithOverflow, some _ => true
  | true, .timeOverflow, some _ => true
  | true, .illegalOp, none => true
  | _, _, _ => false

/-- The invariant of the block. -/
structure State.Inv (s : State) : Prop where
  /-- 00_scope.md R7, with `IDX_W` at most 16. -/
  table_length : 1 ≤ s.rampLen ∧ s.rampLen ≤ 65536
  /-- 40_ramp_table.md R100. -/
  table_nonIncreasing : nonIncreasing s.table = true
  /-- 00_scope.md R7. -/
  signalLength_pos : 1 ≤ s.signalLength.toNat
  /-- 00_scope.md R7. -/
  resolution_pos : ∀ a, 1 ≤ (s.resolution.get a).toNat
  axis_inv : ∀ a, (s.axis a).Inv s.rampLen
  /-- 10_state.md R37 item 4. -/
  queue_length : s.queue.length ≤ 2
  /-- 44_machine_ops.md R178. -/
  idle_onTarget : s.queue = [] → s.allOnTarget = true
  /-- 60_exceptions.md R240. -/
  fault_record : faultRecordLegal s.halted s.faultCause s.faultAxis = true

/-- The states a run reaches: from reset with a legal configuration, by steps, whatever inputs the host offers. -/
inductive Reachable : State → Prop where
  | reset (c : Config) : legalConfig c = true → Reachable (State.ofConfig c)
  | offer (s : State) (inputs : List HostInput) : Reachable s → Reachable { s with inbox := inputs }
  | step (s t : State) : Reachable s → Sys2Proof.Machine.step s = .next t → Reachable t

/-- A step is safe: it does not end in a fault of the model. -/
def safeStep (s : State) : Prop := ∀ f, step s ≠ .fault f

end Sys2Proof.Machine
end

