-- ==== Sys2Proof/Certificates/Slice0/Obligations.lean ====
section
/-! DEFINITION. Certificates/Slice0/Obligations.lean: the statements for the provers, and the few spec-side definitions they
are written with. -/

namespace Sys2Proof.Claims

open Sys2Proof Sys2Proof.Machine

/-- RSP = DONE, with nothing consumed and no data (30_encoding.md R74). -/
def doneRsp : Option RspWord := some (rspWord .done false 0#32)

/-- The state a fault raised by an operation leaves (60_exceptions.md R241, R243): the state before it but for the fault
record, one diagnostic and the HALTED answer. -/
def faulted (s : State) (cause : FaultCause) (axis : Option Axis) : State :=
  { s with halted := true, faultCause := cause, faultAxis := axis,
           effects := [.diag .fault (faultId cause axis)], rsp := some (rspWord .halted false 0#32) }

/-- The axes in the order the rules take them (45_commands.md R207). -/
def axisOrder : List Axis := [.x, .y, .z]

/-- `b` is taken before `a`. -/
def before (b a : Axis) : Prop := axisCode (some b) < axisCode (some a)

/-- The tag that names an axis (30_encoding.md R84). -/
def tagOf : Axis → ArgTag
  | .x => .x
  | .y => .y
  | .z => .z

/-- The arguments of a command with one tag, in slot order. -/
def withTag (args : Slots) (tag : ArgTag) : List Arg :=
  ([args.a0, args.a1, args.a2].filterMap id).filter (fun g => decide (g.tag = tag))

/-- The exact target of axis `a` before its range check (45_commands.md R206 step 1, R207). -/
def exactTarget (args : Slots) (s : State) (a : Axis) : Int :=
  match (withTag args (tagOf a)).getLast? with
  | none => (s.axis a).position.toInt
  | some g =>
    match s.mode with
    | .relative => (s.axis a).position.toInt + argToSteps g (s.resolution.get a)
    | .absolute => argToSteps g (s.resolution.get a) + (s.homeOffset.get a).toInt

/-- `disp[a]` (45_commands.md R206). -/
def disp (args : Slots) (s : State) (a : Axis) : Int := exactTarget args s a - (s.axis a).position.toInt

/-- `dist` (45_commands.md R208). -/
def distOf (args : Slots) (s : State) : Nat :=
  isqrt ((disp args s .x).natAbs ^ 2 + (disp args s .y).natAbs ^ 2 + (disp args s .z).natAbs ^ 2)

/-- `spd[a]` for the requested speed (45_commands.md R209). -/
def spd (speed : Word) (args : Slots) (s : State) (a : Axis) : Nat :=
  speed.toNat * (disp args s a).natAbs / distOf args s

/-- The feed rate of the last F argument, if there is one (45_commands.md R201, R203). -/
def feedArg (args : Slots) : Option Word := ((withTag args .f).getLast?).map argToFeed

/-- G0 moves at F if it is given and else at `maxFeedRate` (45_commands.md R204). -/
def g0Speed (args : Slots) (s : State) : Word := (feedArg args).getD s.maxFeedRate

/-- The feed rate after G0 or G1, and the speed of G1 (45_commands.md R204, R205). -/
def feedAfter (args : Slots) (s : State) : Word := (feedArg args).getD s.feedRate

/-- The unit of axis `a` once a move is committed: a moving axis is set up from rest, the others stay (43_axis.md R150,
45_commands.md R209). -/
def movedAxis (speed : Word) (args : Slots) (s : State) (a : Axis) : AxisUnit :=
  if disp args s a = 0 then s.axis a
  else
    { target := BitVec.ofInt 32 (exactTarget args s a)
      position := (s.axis a).position
      direction := if 0 < disp args s a then .positive else .negative
      accIndex := 0
      accIndexFloor := 0
      cruiseDelay := BitVec.ofNat 32 (1000000 / spd speed args s a)
      nextEventTime := 0#64
      pulseHigh := false
      dirLevel := decide (0 < disp args s a) }

/-- The SetDir effect of axis `a`, if it moves (45_commands.md R209). -/
def movedDir (args : Slots) (s : State) (a : Axis) : List Effect :=
  if disp args s a = 0 then [] else [.setDir a (decide (0 < disp args s a))]

/-- The state a committed move leaves (45_commands.md R206 step 4). -/
def moved (speed newFeed : Word) (args : Slots) (s : State) : State :=
  { s with feedRate := newFeed
           axes := ⟨movedAxis speed args s .x, movedAxis speed args s .y, movedAxis speed args s .z⟩
           effects := movedDir args s .x ++ movedDir args s .y ++ movedDir args s .z }

/-- The tags by their TAG value, 0 to 7 (30_encoding.md R84). -/
def tagTable : List ArgTag := [.x, .y, .z, .f, .p, .r, .reserved6, .reserved7]

/-- What an AXIS value names, 0 to 3 (30_encoding.md R71). -/
def axisTable : List (Option Axis) := [some .x, some .y, some .z, none]

/-- The bits of an argument slot that are not ignored (30_encoding.md R83, R86). -/
def usedSlotBits (w : SlotWord) : SlotWord :=
  if w.getLsbD 51 then w &&& 0xFFFFFFFF000FFFFFFFFFFFFF#96 else 0#96

/-- The header bits that are not ignored (30_encoding.md R81, R86, R87). -/
def usedHeaderBits (h : Header) : Header := h &&& 0x0000FFFFFFFF0003#64

/-- The id of an unrecognized command by place value (30_encoding.md R81, 45_commands.md R218). -/
def reportId (mnem : Nat) (major minor : BitVec 16) : BitVec 64 :=
  BitVec.ofNat 64 (minor.toNat * 2 ^ 32 + major.toNat * 2 ^ 16 + mnem)

/-- The queue a retiring POLL leaves: the offer is taken if there is room, then the head goes (44_machine_ops.md R172). -/
def afterRetirement (s : State) (offer : Option Bundle) : List Bundle :=
  s.queue.drop 1 ++ (if s.queue.length < 2 then offer.toList else [])

/-- A command row of the opcode table. -/
def isCommand (i : Instr) : Prop := ∃ c : Command, i = Instr.ofCommand c

/-- The axis a TICK serves, by the round-robin slot (10_state.md R26). -/
def served (s : State) (axis : Option Axis) : Prop := axisCode axis = s.rrSlot

end Sys2Proof.Claims

open Sys2Proof Sys2Proof.Machine Sys2Proof.Claims

/-! ## Encoding -/

/-- 30_encoding.md R70 to R87: decoding the encoding of a well-formed instruction gives it back, for every operand value. -/
def Obligations.DecodeOfEncodeIsTheInstruction : Prop :=
  ∀ i : Instr, i.wellFormed = true → decode (encode i) = .ok i

/-- 20_memory.md R52, with log 5: the bytes that carry an instruction's words decode to it. -/
def Obligations.CarriedBytesDecodeToTheInstruction : Prop :=
  ∀ i : Instr, i.wellFormed = true → decodeBytes (encodeBytes i) = .ok i

/-- 20_memory.md R52: byte k of a carried request, bundle or response is its bits 8k+7 to 8k. That a request and a bundle come
back from their bytes by length alone, and that no bytes but a response's own eight carry one, is the model's choice
(log 5). -/
def Obligations.CarriedWordsAreLittleEndian : Prop :=
  (∀ r : ReqWord, wordsOfBytes (bytesOfWords { req := some r, cmd := none }) = .ok { req := some r, cmd := none } ∧
    ∀ k < 16, (bytesOfWords { req := some r, cmd := none })[k]? = some (r.extractLsb' (8 * k) 8)) ∧
  (∀ c : Bundle, wordsOfBytes (bytesOfWords { req := none, cmd := some c }) = .ok { req := none, cmd := some c } ∧
    ∀ k < 44, (bytesOfWords { req := none, cmd := some c })[k]? = some (c.extractLsb' (8 * k) 8)) ∧
  (∀ p : RspWord, ∀ k < 8, (bytesOfRsp p)[k]? = some (p.extractLsb' (8 * k) 8)) ∧
  ∀ (bs : List Byte) (p : RspWord), rspOfBytes bs = .ok p ↔ bs = bytesOfRsp p

/-- 30_encoding.md R87, in the mask form it gives. -/
def Obligations.CommandDecodeFollowsMaskedHeader : Prop :=
  ∀ c : Bundle,
    decodeCmd c =
      (let h := cmdHeader c
       let m := h &&& 0x0000FFFFFFFF0003#64
       let k := h &&& 0x0000000000000003#64
       if m = 0x0000000000000000#64 then .g0 (decodeSlots c)
       else if m = 0x0000000000010000#64 then .g1 (decodeSlots c)
       else if m = 0x0000000000140000#64 then .g20
       else if m = 0x0000000000150000#64 then .g21
       else if m = 0x00000000005A0000#64 then .g90
       else if m = 0x00000000005B0000#64 then .g91
       else if m = 0x00000000005C0000#64 then .g92 (decodeSlots c)
       else if m = 0x00000000001E0001#64 then .m30
       else if k = 1#64 then .mOther (headerMajor h) (headerMinor h)
       else if k = 0#64 then .gUnrecognized (headerMajor h) (headerMinor h)
       else if k = 2#64 then .nUnrecognized (headerMajor h) (headerMinor h)
       else .unknownUnrecognized (headerMajor h) (headerMinor h))

/-- 30_encoding.md R80, R81, R83, R84: the fields of a bundle, its header and its slots, by place value; and R86: bundles that
differ only in ignored bits decode alike. -/
def Obligations.IgnoredBundleBitsDoNotMatter : Prop :=
  (∀ c : Bundle, cmdHeader c = BitVec.ofNat 64 c.toNat ∧
    decodeSlots c = { a0 := decodeSlot (BitVec.ofNat 96 (c.toNat / 2 ^ 64)),
                      a1 := decodeSlot (BitVec.ofNat 96 (c.toNat / 2 ^ 160)),
                      a2 := decodeSlot (BitVec.ofNat 96 (c.toNat / 2 ^ 256)) }) ∧
  (∀ h : Header, (headerMnem h).toNat = h.toNat % 4 ∧ headerMajor h = BitVec.ofNat 16 (h.toNat / 2 ^ 16) ∧
    headerMinor h = BitVec.ofNat 16 (h.toNat / 2 ^ 32)) ∧
  (∀ w : SlotWord,
    (w.toNat / 2 ^ 51 % 2 = 0 → decodeSlot w = none) ∧
    (w.toNat / 2 ^ 51 % 2 = 1 → ∃ tag, tagTable[w.toNat / 2 ^ 48 % 8]? = some tag ∧
      decodeSlot w = some { tag := tag, int := BitVec.ofNat 32 w.toNat, frac := BitVec.ofNat 16 (w.toNat / 2 ^ 32),
                            float := BitVec.ofNat 32 (w.toNat / 2 ^ 64) })) ∧
  ∀ c d : Bundle, usedHeaderBits (cmdHeader c) = usedHeaderBits (cmdHeader d) →
    usedSlotBits (cmdSlot0 c) = usedSlotBits (cmdSlot0 d) →
    usedSlotBits (cmdSlot1 c) = usedSlotBits (cmdSlot1 d) →
    usedSlotBits (cmdSlot2 c) = usedSlotBits (cmdSlot2 d) → decodeCmd c = decodeCmd d

/-- 30_encoding.md R86, R72: every bundle is a well-formed command, and a request is a well-formed operation unless it is an
ENQUEUE with no bundle. What happens to such a request, and that a bundle may stand beside any other, are the model's choice
(logs 9 and 14). -/
def Obligations.EveryWordDecodesOrNamesWhyNot : Prop :=
  (∀ c : Bundle, (Instr.ofCommand (decodeCmd c)).wellFormed = true) ∧
  (∀ (r : ReqWord) (cmd : Option Bundle),
    (∃ i, decodeReq r cmd = .ok i ∧ i.wellFormed = true) ∨
    (r.toNat % 16 = 4 ∧ cmd = none ∧ decodeReq r cmd = .error .enqueueWithoutCommand))

/-- 30_encoding.md R71, R72: the operation of a request and its operands, by place value. That a bundle beside a request
other than POLL and ENQUEUE has no effect is the model's choice (log 14). -/
def Obligations.RequestFieldsByPlaceValue : Prop :=
  ∀ (r : ReqWord) (cmd : Option Bundle),
    (r.toNat % 16 = 1 → decodeReq r cmd = .ok (.tick (BitVec.ofNat 64 (r.toNat / 2 ^ 64)))) ∧
    (r.toNat % 16 = 2 → ∃ axis, (axisCode axis).toNat = r.toNat / 16 % 4 ∧
      axisTable[r.toNat / 16 % 4]? = some axis ∧ decodeReq r cmd = .ok (.stepMonitor axis (BitVec.ofNat 64 (r.toNat / 2 ^ 64)))) ∧
    (r.toNat % 16 = 3 → decodeReq r cmd = .ok (.poll cmd)) ∧
    (r.toNat % 16 = 4 → ∀ c, cmd = some c → decodeReq r cmd = .ok (.enqueue c)) ∧
    (r.toNat % 16 = 5 → decodeReq r cmd = .ok (.readReg (BitVec.ofNat 8 (r.toNat / 256)))) ∧
    (r.toNat % 16 = 6 → decodeReq r cmd = .ok (.readTable (BitVec.ofNat 16 (r.toNat / 65536)))) ∧
    (r.toNat % 16 = 0 → decodeReq r cmd = .ok .reservedOp0) ∧
    (r.toNat % 16 = 7 → decodeReq r cmd = .ok .reservedOp7) ∧
    (8 ≤ r.toNat % 16 → decodeReq r cmd = .ok (.reservedOpHigh (BitVec.ofNat 3 (r.toNat % 16 - 8))))

/-- 30_encoding.md R71: a field's value has no effect on an operation that does not use it. That the same holds of a bundle
beside a request other than POLL and ENQUEUE is the model's choice (log 14). -/
def Obligations.UnusedRequestFieldsDoNotMatter : Prop :=
  ∀ (s : State) (r q : ReqWord) (cmd cmd' : Option Bundle) (rest : List HostInput),
    reqOp r = reqOp q →
    (reqOp r = 1#4 ∨ reqOp r = 2#4 → reqNow r = reqNow q) → (reqOp r = 2#4 → reqAxis r = reqAxis q) →
    (reqOp r = 3#4 ∨ reqOp r = 4#4 → cmd = cmd') →
    (reqOp r = 5#4 → reqReg r = reqReg q) → (reqOp r = 6#4 → reqIndex r = reqIndex q) →
    step { s with inbox := .request r cmd :: rest } = step { s with inbox := .request q cmd' :: rest }

/-- 30_encoding.md R91 and 95_test_vectors.md section 2.6: some words and what they stand for. -/
def Obligations.SampleWordsDecode : Prop :=
  decodeReq 0x00000000000000290000000000000001#128 none = .ok (.tick 41#64) ∧
  decodeReq 0x0105#128 none = .ok (.readReg 1#8) ∧
  decodeCmd 0x46C35000000B0000000061A8C040000000080000FFFFFFFD0000000000010000#352 =
    .g1 { a0 := some { tag := .x, int := 0xFFFFFFFD#32, frac := 0#16, float := 0xC0400000#32 },
          a1 := some { tag := .f, int := 25000#32, frac := 0#16, float := 0x46C35000#32 }, a2 := none } ∧
  decodeCmd 0x001E0001#352 = .m30 ∧ decodeCmd 0x00030001#352 = .mOther 3#16 0#16 ∧
  decodeCmd 0x00000001005C0000#352 = .gUnrecognized 92#16 1#16 ∧
  decodeCmd 0x000A0002#352 = .nUnrecognized 10#16 0#16

/-! ## Steps and reset -/

/-- One step runs the instruction the next request decodes to, on the state with that input taken; with no input it keeps all
state (60_exceptions.md R255). -/
def Obligations.StepRunsTheDecodedInstruction : Prop :=
  (∀ (s : State) (r : ReqWord) (cmd : Option Bundle) (rest : List HostInput) (i : Instr),
    s.inbox = .request r cmd :: rest → decodeReq r cmd = .ok i → i.wellFormed = true →
    step s = exec i { s with inbox := rest }) ∧
  (∀ s : State, s.inbox = [] → step s = .next s)

/-- 10_state.md R36 and 70_reset_and_hazards.md R270, R271: the reset input with a legal configuration. The configuration's
values are its operand. -/
def Obligations.ResetInputLeavesTheResetValues : Prop :=
  ∀ (s : State) (c : Config) (rest : List HostInput), s.inbox = .reset c :: rest → legalConfig c = true →
    ∃ t, step s = .next t ∧ t.table = configTable c ∧
      (∀ t0, c.ramp = .built t0 → t.table = buildTable t0 c.rampLen) ∧
      (∀ entries, c.ramp = .supplied entries → t.table = entries) ∧
      t.table.length = c.rampLen ∧ t.rampLen = c.rampLen ∧ t.signalLength = c.signalLength ∧ t.resolution = c.resolution ∧
      t.maxFeedRate = c.maxFeedRate ∧ t.defaultFeedRate = c.defaultFeedRate ∧ t.feedRate = c.defaultFeedRate ∧
      (∀ a, t.axis a = { target := 0#32, position := 0#32, direction := .still, accIndex := 0, accIndexFloor := 0,
                         cruiseDelay := 0#32, nextEventTime := 0#64, pulseHigh := false, dirLevel := false }) ∧
      t.queue = [] ∧ t.mode = .absolute ∧ (∀ a, t.homeOffset.get a = 0#32) ∧ t.rrSlot = 0#2 ∧
      t.halted = false ∧ t.faultCause = .none ∧ t.faultAxis = none ∧
      (∀ a, t.onTarget a = true ∧ t.stepOut a = false ∧ t.dirOut a = false) ∧ t.effects = []

/-- 00_scope.md R6, R7, with log 4 (`IDX_W` is 8 or 16, a built table has `FIRST_STEP_DELAY` ≥ 1): with a configuration that
breaks a clause no state results, and only then. -/
def Obligations.IllegalConfigurationGivesNoState : Prop :=
  ∀ (s : State) (c : Config) (rest : List HostInput), s.inbox = .reset c :: rest →
    (step s = .refused .illegalConfiguration ↔
      ¬ ((c.idxW = 8 ∨ c.idxW = 16) ∧ 1 ≤ c.rampLen ∧ c.rampLen ≤ 2 ^ c.idxW ∧
         (∀ t0, c.ramp = .built t0 → t0 ≠ 0#32) ∧
         (configTable c).length = c.rampLen ∧
         (∀ i, i + 1 < c.rampLen → ((configTable c).getD (i + 1) 0#32).toNat ≤ ((configTable c).getD i 0#32).toNat) ∧
         c.signalLength ≠ 0#32 ∧ ∀ a, c.resolution.get a ≠ 0#32))

/-- 60_exceptions.md R242, R245: the halted state is left only by reset, and until then nothing but the model's own outputs
changes. -/
def Obligations.HaltedIsLeftOnlyByReset : Prop :=
  ∀ s t : State, s.halted = true → step s = .next t →
    (∃ c rest, s.inbox = .reset c :: rest) ∨
    (t.halted = true ∧ t = { s with effects := t.effects, rsp := t.rsp, inbox := t.inbox })

/-! ## The ramp table -/

/-- 40_ramp_table.md R101: the recurrence, with the exact product and floor division. -/
def Obligations.BuildTableFollowsTheRecurrence : Prop :=
  ∀ (t0 : Word) (n : Nat), 1 ≤ n →
    (buildTable t0 n).length = n ∧ (buildTable t0 n).getD 0 0#32 = t0 ∧
    ∀ i, 1 ≤ i → i < n → ((buildTable t0 n).getD i 0#32).toNat =
      ((buildTable t0 n).getD (i - 1) 0#32).toNat * (4 * i - 1) / (4 * i + 1)

/-- 40_ramp_table.md R101 (its derived corner case) and R100: the built table is non-increasing, and after a zero all entries
are zero. -/
def Obligations.BuiltTableNeverRises : Prop :=
  ∀ (t0 : Word) (n i j : Nat), i ≤ j → j < n →
    ((buildTable t0 n).getD j 0#32).toNat ≤ ((buildTable t0 n).getD i 0#32).toNat

/-- 41_axis_ramp.md R111. -/
def Obligations.FloorIndexIsTheFirstSmallEnough : Prop :=
  ∀ (table : List Word) (x : Word), table ≠ [] →
    floorIndex table x < table.length ∧
    (∀ j, j < floorIndex table x → x.toNat < (table.getD j 0#32).toNat) ∧
    ((∃ j, j < table.length ∧ (table.getD j 0#32).toNat ≤ x.toNat) →
      (table.getD (floorIndex table x) 0#32).toNat ≤ x.toNat) ∧
    ((∀ j, j < table.length → x.toNat < (table.getD j 0#32).toNat) → floorIndex table x = table.length - 1)

/-! ## The ramp -/

/-- 41_axis_ramp.md R112 to R117: `RampNext` on integers, for a unit that meets its invariant. -/
def Obligations.RampNextFollowsThePolicies : Prop :=
  (∀ (s : State) (a : Axis) (u : AxisUnit), s.setAxis a u = { s with axes := (s.setAxis a u).axes } ∧
    (s.setAxis a u).axis a = u ∧ ∀ b, b ≠ a → (s.setAxis a u).axis b = s.axis b) ∧
  ∀ (s : State) (a : Axis), (s.axis a).Inv s.rampLen →
    ((s.axis a).position = (s.axis a).target → rampNext a s = .ok (none, s)) ∧
    ((s.axis a).position ≠ (s.axis a).target →
      ∃ (d p : Word) (k : Nat),
        rampNext a s = .ok (some d, s.setAxis a { s.axis a with position := p, accIndex := k }) ∧
        p.toInt = (s.axis a).position.toInt + (s.axis a).direction.toInt ∧
        k < s.rampLen ∧
        (if |(s.axis a).target.toInt - p.toInt| ≤ ((s.axis a).accIndex : Int) - (s.axis a).accIndexFloor - 1 then
            k = (s.axis a).accIndex - 1 ∧ s.table[k]? = some d ∧ (s.axis a).accIndexFloor ≤ k
          else if (s.table.getD (s.axis a).accIndex 0#32).toNat ≤ (s.axis a).cruiseDelay.toNat then
            k = (s.axis a).accIndex ∧ d = (s.axis a).cruiseDelay
          else k = min ((s.axis a).accIndex + 1) (s.rampLen - 1) ∧ s.table[(s.axis a).accIndex]? = some d))

/-- 41_axis_ramp.md R110: the unit `RampSetTarget` leaves, its floor by R111; and R118: after it the ramp gives one delay for
each step of the way and ends at the target. -/
def Obligations.RampGivesOneDelayPerStep : Prop :=
  (∀ (s : State) (a : Axis) (target cruise : Word) (arrival : Option Word),
    let t := rampSetTarget a target cruise arrival s
    t = { s with axes := t.axes } ∧ (∀ b, b ≠ a → t.axis b = s.axis b) ∧
    t.axis a = { s.axis a with
      target := target
      direction := signOf (target.toInt - (s.axis a).position.toInt)
      cruiseDelay := cruise
      accIndexFloor := (match arrival with | none => 0 | some x => floorIndex s.table x)
      accIndex := 0 }) ∧
  (∀ u : AxisUnit, u.displacement = u.target.toInt - u.position.toInt) ∧
  (∀ v : Int, (signOf v).toInt = v.sign) ∧
  ∀ (s : State) (a : Axis) (target cruise : Word) (arrival : Option Word), s.table ≠ [] →
    (∀ m, m ≤ (target.toInt - (s.axis a).position.toInt).natAbs →
      ∃ ds t, rampDelays a m (rampSetTarget a target cruise arrival s) = .ok (ds, t) ∧ ds.length = m ∧
        (t.axis a).position.toInt =
          (s.axis a).position.toInt + m * (signOf (target.toInt - (s.axis a).position.toInt)).toInt) ∧
    (∃ ds t, rampDelays a (target.toInt - (s.axis a).position.toInt).natAbs (rampSetTarget a target cruise arrival s) =
        .ok (ds, t) ∧ (t.axis a).position = target ∧ rampNext a t = .ok (none, t))

/-- 41_axis_ramp.md R119: with floor 0 the delays of a move of even length are a palindrome, whatever the table and the
cruise delay. -/
def Obligations.EvenMoveDelaysArePalindrome : Prop :=
  ∀ (s : State) (a : Axis) (target cruise : Word), s.table ≠ [] →
    2 ∣ (target.toInt - (s.axis a).position.toInt).natAbs →
    ∃ ds t, rampDelays a (target.toInt - (s.axis a).position.toInt).natAbs (rampSetTarget a target cruise none s) =
        .ok (ds, t) ∧
      ds.length = (target.toInt - (s.axis a).position.toInt).natAbs ∧ ds.reverse = ds

/-! ## STEP_MONITOR and TICK -/

/-- 44_machine_ops.md R171, 43_axis.md R152, R156: where STEP_MONITOR has nothing to do it changes nothing. -/
def Obligations.StepMonitorWithNothingDueChangesNothing : Prop :=
  ∀ (s : State) (axis : Option Axis) (now : Time), s.halted = false →
    (axis = none ∨ s.queue = [] ∨
      ∃ a, axis = some a ∧ (s.onTarget a = true ∨
        ((s.axis a).nextEventTime ≠ 0#64 ∧ now.toNat < (s.axis a).nextEventTime.toNat))) →
    exec (.stepMonitor axis now) s = .next { s with effects := [], rsp := doneRsp }

/-- 43_axis.md R152: the first poll of a move primes it. -/
def Obligations.StepMonitorPrimesTheMove : Prop :=
  ∀ (s t : State) (a : Axis) (now : Time) (d : Word), s.halted = false → s.queue ≠ [] →
    (s.axis a).nextEventTime = 0#64 → rampNext a s = .ok (some d, t) → now.toNat + d.toNat < 2 ^ 64 →
    exec (.stepMonitor (some a) now) s =
      .next { t with
        axes := t.axes.set a { t.axis a with nextEventTime := BitVec.ofNat 64 (max (now.toNat + d.toNat) 1) }
        effects := [], rsp := doneRsp }

/-- 42_pulse_scheduler.md R130, R132: a due event with the pulse low raises it for `SIGNAL_LENGTH`. -/
def Obligations.StepMonitorRaisesTheDuePulse : Prop :=
  ∀ (s : State) (a : Axis) (now : Time), s.halted = false → s.queue ≠ [] → (s.axis a).nextEventTime ≠ 0#64 →
    (s.axis a).nextEventTime.toNat ≤ now.toNat → (s.axis a).pulseHigh = false →
    now.toNat + s.signalLength.toNat < 2 ^ 64 →
    exec (.stepMonitor (some a) now) s =
      .next { s with
        axes := s.axes.set a { s.axis a with pulseHigh := true,
                                             nextEventTime := BitVec.ofNat 64 (now.toNat + s.signalLength.toNat) }
        effects := [.stepRise a], rsp := doneRsp }

/-- 42_pulse_scheduler.md R131 to R133: a due event with the pulse high lowers it and schedules the next rise, or idles. -/
def Obligations.StepMonitorLowersTheDuePulse : Prop :=
  ∀ (s t : State) (a : Axis) (now : Time) (r : Option Word), s.halted = false → s.queue ≠ [] →
    (s.axis a).nextEventTime ≠ 0#64 → (s.axis a).nextEventTime.toNat ≤ now.toNat → (s.axis a).pulseHigh = true →
    rampNext a s = .ok (r, t) →
    (∀ d, r = some d → now.toNat + max (d.toNat - s.signalLength.toNat) s.signalLength.toNat < 2 ^ 64) →
    exec (.stepMonitor (some a) now) s =
      .next { t with
        axes := t.axes.set a { t.axis a with
          pulseHigh := false,
          nextEventTime := match r with
            | some d => BitVec.ofNat 64 (now.toNat + max (d.toNat - s.signalLength.toNat) s.signalLength.toNat)
            | none => 0#64 }
        effects := [.stepFall a], rsp := doneRsp }

/-- 42_pulse_scheduler.md R134, 60_exceptions.md R243: a time at or past 2^64 halts the block and changes nothing else. -/
def Obligations.ScheduledTimePastTheEndHalts : Prop :=
  ∀ (s : State) (a : Axis) (now : Time), s.halted = false → s.queue ≠ [] →
    (((s.axis a).nextEventTime = 0#64 ∧ ∃ d t, rampNext a s = .ok (some d, t) ∧ 2 ^ 64 ≤ now.toNat + d.toNat) ∨
     ((s.axis a).nextEventTime ≠ 0#64 ∧ (s.axis a).nextEventTime.toNat ≤ now.toNat ∧ (s.axis a).pulseHigh = false ∧
        2 ^ 64 ≤ now.toNat + s.signalLength.toNat) ∨
     ((s.axis a).nextEventTime ≠ 0#64 ∧ (s.axis a).nextEventTime.toNat ≤ now.toNat ∧ (s.axis a).pulseHigh = true ∧
        ∃ d t, rampNext a s = .ok (some d, t) ∧
          2 ^ 64 ≤ now.toNat + max (d.toNat - s.signalLength.toNat) s.signalLength.toNat)) →
    exec (.stepMonitor (some a) now) s = .next (faulted s .timeOverflow (some a)) ∧
    (served s (some a) → exec (.tick now) s = .next (faulted s .timeOverflow (some a)))

/-- 44_machine_ops.md R170: a TICK is the STEP_MONITOR of its slot's axis and advances the slot, unless it faults. -/
def Obligations.TickServesItsSlotAndAdvances : Prop :=
  ∀ (s t : State) (axis : Option Axis) (now : Time), s.halted = false → served s axis →
    exec (.stepMonitor axis now) s = .next t →
    exec (.tick now) s = .next (if t.halted then t else { t with rrSlot := s.rrSlot + 1#2 })

/-- 44_machine_ops.md R170, R171: short of the end of time, TICK and STEP_MONITOR run to their end in every state that meets
the invariant. -/
def Obligations.TickAndStepMonitorComplete : Prop :=
  ∀ (s : State) (now : Time), s.Inv → s.halted = false → now.toNat + 2 ^ 32 ≤ 2 ^ 64 →
    (∃ t, exec (.tick now) s = .next t ∧ t.halted = false ∧ t.rrSlot = s.rrSlot + 1#2 ∧ t.rsp = doneRsp) ∧
    (∀ axis, ∃ t, exec (.stepMonitor axis now) s = .next t ∧ t.halted = false ∧ t.rrSlot = s.rrSlot ∧ t.rsp = doneRsp)

/-- 43_axis.md R155, 20_memory.md R62: an axis poll writes that axis alone and emits at most one edge; TICK adds the slot. -/
def Obligations.TimerOperationsTouchOneAxis : Prop :=
  ∀ (s t : State) (now : Time), t.halted = false →
    (∀ axis, exec (.stepMonitor axis now) s = .next t →
      t = { s with axes := t.axes, effects := t.effects, rsp := t.rsp } ∧
      (∀ b, axis ≠ some b → t.axis b = s.axis b) ∧
      (t.effects = [] ∨ ∃ a, axis = some a ∧ (t.effects = [.stepRise a] ∨ t.effects = [.stepFall a]))) ∧
    (exec (.tick now) s = .next t →
      t = { s with axes := t.axes, rrSlot := s.rrSlot + 1#2, effects := t.effects, rsp := t.rsp } ∧
      (∀ b, s.rrSlot ≠ axisCode (some b) → t.axis b = s.axis b) ∧
      (t.effects = [] ∨ ∃ a, s.rrSlot = axisCode (some a) ∧ (t.effects = [.stepRise a] ∨ t.effects = [.stepFall a])))

/-- 42_pulse_scheduler.md R135: a scheduled event moves forward or the scheduler idles. -/
def Obligations.NextEventOnlyMovesForward : Prop :=
  ∀ (s t : State) (a : Axis) (now : Time), 1 ≤ s.signalLength.toNat → (s.axis a).nextEventTime ≠ 0#64 →
    axisPoll a now s = .ok t →
    t = s ∨ (t.axis a).nextEventTime = 0#64 ∨ (s.axis a).nextEventTime.toNat < (t.axis a).nextEventTime.toNat

/-- 42_pulse_scheduler.md R136: once a poll changes the pulse at `now`, no poll of that unit before `now + SIGNAL_LENGTH`
changes it again. -/
def Obligations.PulseHoldsForSignalLength : Prop :=
  ∀ (s t : State) (a : Axis) (now later : Time), axisPoll a now s = .ok t →
    (t.axis a).pulseHigh ≠ (s.axis a).pulseHigh → (t.axis a).nextEventTime ≠ 0#64 →
    later.toNat < now.toNat + s.signalLength.toNat → axisPoll a later t = .ok t

/-! ## POLL and ENQUEUE -/

/-- 44_machine_ops.md R172, R175: where nothing retires, POLL takes its offer behind a command in progress without decoding
it, and with nothing to take it changes nothing. -/
def Obligations.PollWithoutRetirement : Prop :=
  ∀ (s : State) (offer : Option Bundle), s.halted = false →
    (offer = none ∨ 2 ≤ s.queue.length → s.queue = [] ∨ s.allOnTarget = false →
      exec (.poll offer) s = .next { s with effects := [], rsp := doneRsp }) ∧
    (∀ c d, offer = some c → s.queue = [d] → s.allOnTarget = false →
      exec (.poll offer) s = .next { s with queue := [d, c], effects := [], rsp := some (rspWord .done true 0#32) })

/-- 44_machine_ops.md R172, 45_commands.md R200: POLL decodes the command it takes into an empty queue, and retires it at
once if every axis is on target after that. -/
def Obligations.PollDecodesIntoAnEmptyQueue : Prop :=
  ∀ (s t : State) (c : Bundle), s.halted = false → s.queue = [] →
    exec (Instr.ofCommand (decodeCmd c)) { s with queue := [c] } = .next t →
    exec (.poll (some c)) s =
      .next (if t.halted then faulted s t.faultCause t.faultAxis
             else { t with queue := if t.allOnTarget then [] else [c], rsp := some (rspWord .done true 0#32) })

/-- 44_machine_ops.md R172, R174: with every axis on target POLL retires the head and decodes the next command. -/
def Obligations.PollRetiresAndDecodesTheNext : Prop :=
  ∀ (s : State) (offer : Option Bundle), s.halted = false → s.queue ≠ [] → s.allOnTarget = true →
    (afterRetirement s offer = [] → exec (.poll offer) s = .next { s with queue := [], effects := [], rsp := doneRsp }) ∧
    (∀ c rest t, afterRetirement s offer = c :: rest →
      exec (Instr.ofCommand (decodeCmd c)) { s with queue := c :: rest } = .next t →
      exec (.poll offer) s =
        .next (if t.halted then faulted s t.faultCause t.faultAxis
               else { t with rsp := some (rspWord .done (offer.isSome && decide (s.queue.length < 2)) 0#32) }))

/-- 44_machine_ops.md R173: ENQUEUE behind a head appends without decoding, and a full queue rejects. -/
def Obligations.EnqueueAppendsOrRejects : Prop :=
  ∀ (s : State) (c : Bundle), s.halted = false →
    (∀ d, s.queue = [d] → exec (.enqueue c) s = .next { s with queue := [d, c], effects := [], rsp := doneRsp }) ∧
    (s.queue.length = 2 →
      exec (.enqueue c) s = .next { s with effects := [], rsp := some (rspWord .rejected false 0#32) })

/-- 44_machine_ops.md R173: ENQUEUE decodes a command it puts into an empty queue and does not retire it. -/
def Obligations.EnqueueDecodesIntoAnEmptyQueue : Prop :=
  ∀ (s t : State) (c : Bundle), s.halted = false → s.queue = [] →
    exec (Instr.ofCommand (decodeCmd c)) { s with queue := [c] } = .next t →
    exec (.enqueue c) s =
      .next (if t.halted then faulted s t.faultCause t.faultAxis else { t with rsp := doneRsp })

/-- 45_commands.md R219, 44_machine_ops.md R174: a command leaves the queue only at a POLL, and only when every axis is on
target; what is queued keeps its order. -/
def Obligations.CommandsLeaveTheQueueOnlyOnTarget : Prop :=
  ∀ (i : Instr) (s t : State), exec i s = .next t →
    s.queue <+: t.queue ∨
    ((∃ offer, i = .poll offer) ∧ s.halted = false ∧ s.allOnTarget = true ∧ s.queue.drop 1 <+: t.queue)

/-- 44_machine_ops.md R178, 43_axis.md R158: a move in progress is never superseded: while an axis is off its target POLL and
ENQUEUE write no axis. -/
def Obligations.MovesAreNeverSuperseded : Prop :=
  ∀ (i : Instr) (s t : State), s.Inv → s.allOnTarget = false → ((∃ offer, i = .poll offer) ∨ ∃ c, i = .enqueue c) →
    exec i s = .next t → t.axes = s.axes

/-! ## Reads -/

/-- 44_machine_ops.md R176, R177: READ_REG and READ_TABLE answer, halted or not, and change nothing; an index of N or more
reads 0. -/
def Obligations.ReadsAnswerAndChangeNothing : Prop :=
  ∀ s : State,
    (∀ reg, exec (.readReg reg) s =
      .next { s with effects := [],
                     rsp := some (rspWord (if s.halted then .halted else .done) false (statusView s reg)) }) ∧
    (∀ index, ∃ v, exec (.readTable index) s =
        .next { s with effects := [], rsp := some (rspWord (if s.halted then .halted else .done) false v) } ∧
      (index.toNat < s.rampLen → s.table[index.toNat]? = some v) ∧ (s.rampLen ≤ index.toNat → v = 0#32))

/-- 10_state.md R33: the register map. -/
def Obligations.StatusViewIsTheRegisterMap : Prop :=
  ∀ s : State,
    statusView s 0#8 = statusReg s ∧ statusView s 1#8 = faultReg s ∧ statusView s 2#8 = s.feedRate ∧
    statusView s 3#8 = s.maxFeedRate ∧ statusView s 4#8 = s.defaultFeedRate ∧ statusView s 5#8 = s.signalLength ∧
    statusView s 6#8 = BitVec.ofNat 32 s.table.length ∧ s.rampLen = s.table.length ∧ statusView s 7#8 = 0#32 ∧
    (∀ a : Axis, statusView s (8#8 + (axisCode (some a)).zeroExtend 8) = s.homeOffset.get a ∧
      statusView s (11#8 + (axisCode (some a)).zeroExtend 8) = s.resolution.get a) ∧
    statusView s 14#8 = 0#32 ∧ statusView s 15#8 = 0#32 ∧
    (∀ a : Axis, let base := 16#8 + 8#8 * (axisCode (some a)).zeroExtend 8
      statusView s base = (s.axis a).position ∧ statusView s (base + 1#8) = (s.axis a).target ∧
      (statusView s (base + 2#8)).toInt = (s.axis a).direction.toInt ∧
      statusView s (base + 3#8) = BitVec.ofNat 32 (s.axis a).accIndex ∧
      statusView s (base + 4#8) = BitVec.ofNat 32 (s.axis a).accIndexFloor ∧
      statusView s (base + 5#8) = (s.axis a).cruiseDelay ∧
      statusView s (base + 7#8) ++ statusView s (base + 6#8) = (s.axis a).nextEventTime) ∧
    (∀ reg : BitVec 8, 40 ≤ reg.toNat → statusView s reg = 0#32)

/-- 10_state.md R34, R35, 60_exceptions.md R240: the fields of STATUS, in a state whose queue holds at most two commands (R37
item 4), those of FAULT, and the codes of the causes and of the axes; with them the output levels (R24) and on-target
(43_axis.md R153) from the fields they come from. -/
def Obligations.StatusAndFaultRegisterFields : Prop :=
  ∀ s : State, s.queue.length ≤ 2 →
    (statusReg s).toNat % 2 = s.halted.toNat ∧ (statusReg s).toNat / 2 % 4 = s.queue.length ∧
    (statusReg s).getLsbD 3 = decide (s.mode = .relative) ∧
    (statusReg s).getLsbD 4 = s.onTarget .x ∧ (statusReg s).getLsbD 5 = s.onTarget .y ∧
    (statusReg s).getLsbD 6 = s.onTarget .z ∧ (statusReg s).getLsbD 7 = (s.axis .x).pulseHigh ∧
    (statusReg s).getLsbD 8 = (s.axis .y).pulseHigh ∧ (statusReg s).getLsbD 9 = (s.axis .z).pulseHigh ∧
    (statusReg s).getLsbD 10 = (s.axis .x).dirLevel ∧ (statusReg s).getLsbD 11 = (s.axis .y).dirLevel ∧
    (statusReg s).getLsbD 12 = (s.axis .z).dirLevel ∧ (statusReg s).extractLsb' 13 2 = s.rrSlot ∧
    (statusReg s).toNat < 2 ^ 15 ∧
    (∀ a, s.stepOut a = (s.axis a).pulseHigh ∧ s.dirOut a = (s.axis a).dirLevel ∧
      (s.onTarget a = true ↔ (s.axis a).position = (s.axis a).target ∧ (s.axis a).nextEventTime = 0#64)) ∧
    (s.allOnTarget = true ↔ ∀ a, s.onTarget a = true) ∧
    (faultReg s).toNat = (axisCode s.faultAxis).toNat * 16 + s.faultCause.code.toNat ∧
    (faultId s.faultCause s.faultAxis).toNat = (faultReg s).toNat ∧
    FaultCause.none.code = 0#4 ∧ FaultCause.inchMode.code = 1#4 ∧ FaultCause.zeroAxisSpeed.code = 2#4 ∧
    FaultCause.arithOverflow.code = 3#4 ∧ FaultCause.timeOverflow.code = 4#4 ∧ FaultCause.illegalOp.code = 5#4 ∧
    axisCode (some .x) = 0#2 ∧ axisCode (some .y) = 1#2 ∧ axisCode (some .z) = 2#2 ∧ axisCode none = 3#2

/-! ## Faults and the response -/

/-- 30_encoding.md R73, 44_machine_ops.md R179: a request whose OP is 0 or 7 to 15 halts a running block, and changes nothing
in a halted one. -/
def Obligations.ReservedOpsHaltTheBlock : Prop :=
  (∀ s : State, s.halted = false →
    exec .reservedOp0 s = .next (faulted s .illegalOp none) ∧ exec .reservedOp7 s = .next (faulted s .illegalOp none) ∧
    ∀ low, exec (.reservedOpHigh low) s = .next (faulted s .illegalOp none)) ∧
  (∀ (s : State) (r : ReqWord) (cmd : Option Bundle) (rest : List HostInput), s.inbox = .request r cmd :: rest →
    r.toNat % 16 = 0 ∨ 7 ≤ r.toNat % 16 →
    step s = .next (if s.halted then { s with effects := [], rsp := some (rspWord .halted false 0#32), inbox := rest }
                    else faulted { s with inbox := rest } .illegalOp none))

/-- 44_machine_ops.md R181, 60_exceptions.md R242: while halted no instruction changes the block or emits an effect; an
operation answers HALTED, with the true value for a read. -/
def Obligations.HaltedInstructionsChangeNothing : Prop :=
  ∀ (i : Instr) (s : State), s.halted = true →
    ∃ r, exec i s = .next { s with effects := [], rsp := r } ∧
      (¬ isCommand i → ∃ v, r = some (rspWord .halted false v) ∧
        (∀ reg, i = .readReg reg → v = statusView s reg) ∧
        (∀ index, i = .readTable index → v = s.table.getD index.toNat 0#32) ∧
        ((∀ reg, i ≠ .readReg reg) → (∀ index, i ≠ .readTable index) → v = 0#32))

/-- 60_exceptions.md R241, R243: an instruction that halts a running block leaves the state before it but for the fault
record, one diagnostic and the HALTED answer, and the record is one of the table of R240. -/
def Obligations.FaultsArePrecise : Prop :=
  ∀ (i : Instr) (s t : State), s.halted = false → exec i s = .next t → t.halted = true →
    t = faulted s t.faultCause t.faultAxis ∧ faultRecordLegal true t.faultCause t.faultAxis = true

/-- 30_encoding.md R74: the fields of RSP. -/
def Obligations.ResponseWordFields : Prop :=
  ∀ (st : RspStatus) (consumed : Bool) (data : Word),
    (rspWord st consumed data).toNat % 4 = (match st with | .done => 0 | .rejected => 1 | .halted => 2) ∧
    (rspWord st consumed data).getLsbD 2 = consumed ∧
    (rspWord st consumed data).toNat / 8 % 2 ^ 29 = 0 ∧ (rspWord st consumed data).toNat / 2 ^ 32 = data.toNat

/-- 44_machine_ops.md R180: the status, CONSUMED and DATA of every operation's answer. -/
def Obligations.AnswersFollowTheStatusRule : Prop :=
  ∀ (i : Instr) (s t : State), ¬ isCommand i → exec i s = .next t →
    ∃ st consumed data, t.rsp = some (rspWord st consumed data) ∧
      (st = .halted ↔ t.halted = true) ∧
      (st = .rejected ↔ t.halted = false ∧ 2 ≤ s.queue.length ∧ ∃ c, i = .enqueue c) ∧
      (consumed = true ↔ t.halted = false ∧ s.queue.length < 2 ∧ ∃ c, i = .poll (some c)) ∧
      (data ≠ 0#32 → (∃ reg, i = .readReg reg) ∨ ∃ index, i = .readTable index)

/-- 10_state.md R28, R29, 20_memory.md R50: no instruction writes the table or the configuration. -/
def Obligations.TableAndConfigurationAreReadOnly : Prop :=
  ∀ (i : Instr) (s t : State), exec i s = .next t →
    t.table = s.table ∧ t.signalLength = s.signalLength ∧ t.resolution = s.resolution ∧
    t.defaultFeedRate = s.defaultFeedRate ∧ t.maxFeedRate = s.maxFeedRate ∧ t.inbox = s.inbox

/-! ## Commands -/

/-- 45_commands.md R212, R213, R215 to R217: the commands with no argument, and the headers they are decoded from. -/
def Obligations.ModalCommandsWriteTheirField : Prop :=
  (∀ s : State, s.halted = false →
    exec .g90 s = .next { s with mode := .absolute, effects := [] } ∧
    exec .g91 s = .next { s with mode := .relative, effects := [] } ∧
    exec .g21 s = .next { s with effects := [] } ∧
    exec .m30 s = .next { s with feedRate := s.maxFeedRate, effects := [] } ∧
    ∀ major minor, exec (.mOther major minor) s = .next { s with effects := [] }) ∧
  (∀ c : Bundle,
    (usedHeaderBits (cmdHeader c) = 0x005A0000#64 → decodeCmd c = .g90) ∧
    (usedHeaderBits (cmdHeader c) = 0x005B0000#64 → decodeCmd c = .g91) ∧
    (usedHeaderBits (cmdHeader c) = 0x00150000#64 → decodeCmd c = .g21) ∧
    (usedHeaderBits (cmdHeader c) = 0x001E0001#64 → decodeCmd c = .m30) ∧
    (usedHeaderBits (cmdHeader c) ≠ 0x001E0001#64 → cmdHeader c &&& 3#64 = 1#64 → ∃ major minor, decodeCmd c = .mOther major minor))

/-- 45_commands.md R214: G20 halts the block, with the intake, the retirement, or the intake and the retirement of one POLL
that reached it discarded. -/
def Obligations.InchModeHaltsTheBlock : Prop :=
  ∀ s : State, s.halted = false →
    exec .g20 s = .next (faulted s .inchMode none) ∧
    ∀ c : Bundle, usedHeaderBits (cmdHeader c) = 0x00140000#64 →
      decodeCmd c = .g20 ∧
      (s.queue = [] → exec (.poll (some c)) s = .next (faulted s .inchMode none) ∧
        exec (.enqueue c) s = .next (faulted s .inchMode none)) ∧
      (∀ d offer, s.queue = [d, c] → s.allOnTarget = true → exec (.poll offer) s = .next (faulted s .inchMode none)) ∧
      (∀ d, s.queue = [d] → s.allOnTarget = true → exec (.poll (some c)) s = .next (faulted s .inchMode none))

/-- 45_commands.md R218, 60_exceptions.md R247: an unrecognized command is reported by its masked header and changes
nothing. -/
def Obligations.UnrecognizedCommandsAreReported : Prop :=
  ∀ (s : State) (major minor : BitVec 16), s.halted = false →
    exec (.gUnrecognized major minor) s =
      .next { s with effects := [.diag .unrecognizedCommand (reportId 0 major minor)] } ∧
    exec (.nUnrecognized major minor) s =
      .next { s with effects := [.diag .unrecognizedCommand (reportId 2 major minor)] } ∧
    exec (.unknownUnrecognized major minor) s =
      .next { s with effects := [.diag .unrecognizedCommand (reportId 3 major minor)] } ∧
    (∀ c, (decodeCmd c = .gUnrecognized major minor → cmdHeader c &&& 0x0000FFFFFFFF0003#64 = reportId 0 major minor) ∧
      (decodeCmd c = .nUnrecognized major minor → cmdHeader c &&& 0x0000FFFFFFFF0003#64 = reportId 2 major minor) ∧
      (decodeCmd c = .unknownUnrecognized major minor →
        cmdHeader c &&& 0x0000FFFFFFFF0003#64 = reportId 3 major minor)) ∧
    DiagCode.unrecognizedCommand.code = 1 ∧ DiagCode.fault.code = 2

/-- 45_commands.md R201: the later slot of a repeated tag wins, and P, R and reserved tags name nothing. -/
def Obligations.GatherTakesTheLastSlotOfATag : Prop :=
  ∀ args : Slots,
    (∀ a, (gather args).axis.get a = (withTag args (tagOf a)).getLast?) ∧ (gather args).f = (withTag args .f).getLast?

/-- 45_commands.md R202, R203: arguments with no fraction. -/
def Obligations.IntegerArgumentsScaleExactly : Prop :=
  ∀ (arg : Arg) (resolution : Word), arg.frac = 0#16 →
    argToSteps arg resolution = arg.int.toInt * resolution.toNat ∧
    (0 ≤ arg.int.toInt → ((argToFeed arg).toNat : Int) = arg.int.toInt)

/-- 45_commands.md R211, 60_exceptions.md R244: G92 stores the scaled arguments as the offsets and changes nothing else; the
first axis whose value lies outside i32 names its fault. -/
def Obligations.SetOffsetStoresTheScaledArguments : Prop :=
  (∀ c : Bundle, usedHeaderBits (cmdHeader c) = 0x005C0000#64 → decodeCmd c = .g92 (decodeSlots c)) ∧
  ∀ (s : State) (args : Slots), s.halted = false →
    ((∀ a g, (withTag args (tagOf a)).getLast? = some g → inI32 (argToSteps g (s.resolution.get a)) = true) →
      ∃ t, exec (.g92 args) s = .next t ∧ t = { s with homeOffset := t.homeOffset, effects := [] } ∧
        ∀ a, match (withTag args (tagOf a)).getLast? with
          | some g => (t.homeOffset.get a).toInt = argToSteps g (s.resolution.get a)
          | none => t.homeOffset.get a = s.homeOffset.get a) ∧
    (∀ a g, (withTag args (tagOf a)).getLast? = some g → inI32 (argToSteps g (s.resolution.get a)) = false →
      (∀ b h, before b a → (withTag args (tagOf b)).getLast? = some h →
        inI32 (argToSteps h (s.resolution.get b)) = true) →
      exec (.g92 args) s = .next (faulted s .arithOverflow (some a)))

/-- 45_commands.md R204 to R207, R209, 43_axis.md R150: G0 and G1 start the coordinated move. -/
def Obligations.MovesStartEveryMovingAxis : Prop :=
  ∀ (s : State) (args : Slots), s.Inv → s.halted = false → s.allOnTarget = true →
    (∀ a, inI32 (exactTarget args s a) = true) → distOf args s ≠ 0 →
    (g0Speed args s ≠ 0#32 → (∀ a, disp args s a ≠ 0 → spd (g0Speed args s) args s a ≠ 0) →
      exec (.g0 args) s = .next (moved (g0Speed args s) (feedAfter args s) args s)) ∧
    (feedAfter args s ≠ 0#32 → (∀ a, disp args s a ≠ 0 → spd (feedAfter args s) args s a ≠ 0) →
      exec (.g1 args) s = .next (moved (feedAfter args s) (feedAfter args s) args s))

/-- 45_commands.md R208: a move with no distance or no speed only writes the feed rate. -/
def Obligations.DegenerateMovesOnlyWriteTheFeedRate : Prop :=
  ∀ (s : State) (args : Slots), s.halted = false → (∀ a, inI32 (exactTarget args s a) = true) →
    (distOf args s = 0 ∨ g0Speed args s = 0#32 →
      exec (.g0 args) s = .next { s with feedRate := feedAfter args s, effects := [] }) ∧
    (distOf args s = 0 ∨ feedAfter args s = 0#32 →
      exec (.g1 args) s = .next { s with feedRate := feedAfter args s, effects := [] })

/-- 45_commands.md R207, R209, 60_exceptions.md R244: the first axis whose target lies outside i32 names the fault of a move;
past that, the first moving axis with no speed does. -/
def Obligations.MovesWithABadAxisHalt : Prop :=
  ∀ (s : State) (args : Slots) (a : Axis), s.halted = false →
    (inI32 (exactTarget args s a) = false → (∀ b, before b a → inI32 (exactTarget args s b) = true) →
      exec (.g0 args) s = .next (faulted s .arithOverflow (some a)) ∧
      exec (.g1 args) s = .next (faulted s .arithOverflow (some a))) ∧
    ((∀ b, inI32 (exactTarget args s b) = true) → distOf args s ≠ 0 → disp args s a ≠ 0 →
      (g0Speed args s ≠ 0#32 → spd (g0Speed args s) args s a = 0 →
        (∀ b, before b a → disp args s b ≠ 0 → spd (g0Speed args s) args s b ≠ 0) →
        exec (.g0 args) s = .next (faulted s .zeroAxisSpeed (some a))) ∧
      (feedAfter args s ≠ 0#32 → spd (feedAfter args s) args s a = 0 →
        (∀ b, before b a → disp args s b ≠ 0 → spd (feedAfter args s) args s b ≠ 0) →
        exec (.g1 args) s = .next (faulted s .zeroAxisSpeed (some a)))) ∧
    ∀ v : Int, inI32 v = true ↔ -2 ^ 31 ≤ v ∧ v ≤ 2 ^ 31 - 1

/-- 45_commands.md R208, 00_scope.md R10: the distance is the largest integer whose square is at most the sum of the squared
displacements; and R208's derived clause: no displacement exceeds the distance, so no allocated speed exceeds the requested
one. -/
def Obligations.AllocatedSpeedsStayBelowTheRequest : Prop :=
  (∀ (s : State) (args : Slots),
    (distOf args s : Int) ^ 2 ≤ disp args s .x ^ 2 + disp args s .y ^ 2 + disp args s .z ^ 2 ∧
    disp args s .x ^ 2 + disp args s .y ^ 2 + disp args s .z ^ 2 < ((distOf args s : Int) + 1) ^ 2) ∧
  ∀ (s : State) (args : Slots) (speed : Word) (a : Axis), distOf args s ≠ 0 →
    (disp args s a).natAbs ≤ distOf args s ∧ spd speed args s a ≤ speed.toNat

/-- 45_commands.md R204 to R218, "State written": what each command leaves unchanged. -/
def Obligations.CommandsWriteOnlyTheirState : Prop :=
  ∀ (i : Instr) (s t : State), isCommand i → s.halted = false → exec i s = .next t → t.halted = false →
    t = { s with axes := t.axes, mode := t.mode, homeOffset := t.homeOffset, feedRate := t.feedRate,
                 effects := t.effects } ∧
    (t.axes ≠ s.axes → (∃ args, i = .g0 args) ∨ ∃ args, i = .g1 args) ∧
    (t.mode ≠ s.mode → i = .g90 ∨ i = .g91) ∧
    (t.homeOffset ≠ s.homeOffset → ∃ args, i = .g92 args) ∧
    (t.feedRate ≠ s.feedRate → (∃ args, i = .g0 args) ∨ (∃ args, i = .g1 args) ∨ i = .m30) ∧
    (t.effects ≠ [] → (∃ args, i = .g0 args) ∨ (∃ args, i = .g1 args) ∨
      ∃ major minor, i = .gUnrecognized major minor ∨ i = .nUnrecognized major minor ∨ i = .unknownUnrecognized major minor)

/-- 44_machine_ops.md R172, R173, R183, "State written": what POLL and ENQUEUE leave unchanged. -/
def Obligations.SlowOperationsLeaveTheRest : Prop :=
  ∀ (i : Instr) (s t : State), ((∃ offer, i = .poll offer) ∨ ∃ c, i = .enqueue c) → exec i s = .next t →
    t.halted = false →
    t = { s with axes := t.axes, queue := t.queue, mode := t.mode, homeOffset := t.homeOffset, feedRate := t.feedRate,
                 effects := t.effects, rsp := t.rsp } ∧
    (∀ a, (t.axis a).position = (s.axis a).position) ∧
    ∀ a, (s.axis a).pulseHigh = false → .stepRise a ∉ t.effects ∧ .stepFall a ∉ t.effects

/-! ## Invariants -/

/-- 10_state.md R37, 44_machine_ops.md R178: every step keeps the invariant, from any state that meets it. -/
def Obligations.EveryStepKeepsTheInvariant : Prop :=
  ∀ s t : State, s.Inv → step s = .next t → t.Inv

/-- The state after reset meets the invariant, and its configuration is legal (log 1). -/
def Obligations.ResetMeetsTheInvariant : Prop :=
  State.reset.Inv ∧ legalConfig Config.default = true

/-- 40_ramp_table.md R105: in every state a run reaches, whatever the host offers, no step reads the table outside its
entries. -/
def Obligations.ReachableStepsAreSafe : Prop :=
  ∀ s : State, Reachable s → s.Inv ∧ safeStep s
end

