-- ==== Sys2Proof/Laws/State.lean ====
section
/-! SUPPORT. Laws/State.lean: one lemma per field per update of the state, and the accessors of one axis. -/

namespace Sys2Proof.Machine

open Sys2Proof

section Updates

variable (s : State)

/-! ### `setAxis` -/
@[simp] theorem State.setAxis_table (a : Axis) (u : AxisUnit) : (s.setAxis a u).table = s.table := rfl
@[simp] theorem State.setAxis_signalLength (a : Axis) (u : AxisUnit) : (s.setAxis a u).signalLength = s.signalLength := rfl
@[simp] theorem State.setAxis_resolution (a : Axis) (u : AxisUnit) : (s.setAxis a u).resolution = s.resolution := rfl
@[simp] theorem State.setAxis_defaultFeedRate (a : Axis) (u : AxisUnit) : (s.setAxis a u).defaultFeedRate = s.defaultFeedRate := rfl
@[simp] theorem State.setAxis_maxFeedRate (a : Axis) (u : AxisUnit) : (s.setAxis a u).maxFeedRate = s.maxFeedRate := rfl
@[simp] theorem State.setAxis_axes (a : Axis) (u : AxisUnit) : (s.setAxis a u).axes = s.axes.set a u := rfl
@[simp] theorem State.setAxis_queue (a : Axis) (u : AxisUnit) : (s.setAxis a u).queue = s.queue := rfl
@[simp] theorem State.setAxis_mode (a : Axis) (u : AxisUnit) : (s.setAxis a u).mode = s.mode := rfl
@[simp] theorem State.setAxis_homeOffset (a : Axis) (u : AxisUnit) : (s.setAxis a u).homeOffset = s.homeOffset := rfl
@[simp] theorem State.setAxis_feedRate (a : Axis) (u : AxisUnit) : (s.setAxis a u).feedRate = s.feedRate := rfl
@[simp] theorem State.setAxis_rrSlot (a : Axis) (u : AxisUnit) : (s.setAxis a u).rrSlot = s.rrSlot := rfl
@[simp] theorem State.setAxis_halted (a : Axis) (u : AxisUnit) : (s.setAxis a u).halted = s.halted := rfl
@[simp] theorem State.setAxis_faultCause (a : Axis) (u : AxisUnit) : (s.setAxis a u).faultCause = s.faultCause := rfl
@[simp] theorem State.setAxis_faultAxis (a : Axis) (u : AxisUnit) : (s.setAxis a u).faultAxis = s.faultAxis := rfl
@[simp] theorem State.setAxis_effects (a : Axis) (u : AxisUnit) : (s.setAxis a u).effects = s.effects := rfl
@[simp] theorem State.setAxis_rsp (a : Axis) (u : AxisUnit) : (s.setAxis a u).rsp = s.rsp := rfl
@[simp] theorem State.setAxis_inbox (a : Axis) (u : AxisUnit) : (s.setAxis a u).inbox = s.inbox := rfl

/-! ### `emit` -/
@[simp] theorem State.emit_table (e : Effect) : (s.emit e).table = s.table := rfl
@[simp] theorem State.emit_signalLength (e : Effect) : (s.emit e).signalLength = s.signalLength := rfl
@[simp] theorem State.emit_resolution (e : Effect) : (s.emit e).resolution = s.resolution := rfl
@[simp] theorem State.emit_defaultFeedRate (e : Effect) : (s.emit e).defaultFeedRate = s.defaultFeedRate := rfl
@[simp] theorem State.emit_maxFeedRate (e : Effect) : (s.emit e).maxFeedRate = s.maxFeedRate := rfl
@[simp] theorem State.emit_axes (e : Effect) : (s.emit e).axes = s.axes := rfl
@[simp] theorem State.emit_queue (e : Effect) : (s.emit e).queue = s.queue := rfl
@[simp] theorem State.emit_mode (e : Effect) : (s.emit e).mode = s.mode := rfl
@[simp] theorem State.emit_homeOffset (e : Effect) : (s.emit e).homeOffset = s.homeOffset := rfl
@[simp] theorem State.emit_feedRate (e : Effect) : (s.emit e).feedRate = s.feedRate := rfl
@[simp] theorem State.emit_rrSlot (e : Effect) : (s.emit e).rrSlot = s.rrSlot := rfl
@[simp] theorem State.emit_halted (e : Effect) : (s.emit e).halted = s.halted := rfl
@[simp] theorem State.emit_faultCause (e : Effect) : (s.emit e).faultCause = s.faultCause := rfl
@[simp] theorem State.emit_faultAxis (e : Effect) : (s.emit e).faultAxis = s.faultAxis := rfl
@[simp] theorem State.emit_effects (e : Effect) : (s.emit e).effects = s.effects ++ [e] := rfl
@[simp] theorem State.emit_rsp (e : Effect) : (s.emit e).rsp = s.rsp := rfl
@[simp] theorem State.emit_inbox (e : Effect) : (s.emit e).inbox = s.inbox := rfl

/-! ### `setFeedRate` -/
@[simp] theorem State.setFeedRate_table (v : Word) : (s.setFeedRate v).table = s.table := rfl
@[simp] theorem State.setFeedRate_signalLength (v : Word) : (s.setFeedRate v).signalLength = s.signalLength := rfl
@[simp] theorem State.setFeedRate_resolution (v : Word) : (s.setFeedRate v).resolution = s.resolution := rfl
@[simp] theorem State.setFeedRate_defaultFeedRate (v : Word) : (s.setFeedRate v).defaultFeedRate = s.defaultFeedRate := rfl
@[simp] theorem State.setFeedRate_maxFeedRate (v : Word) : (s.setFeedRate v).maxFeedRate = s.maxFeedRate := rfl
@[simp] theorem State.setFeedRate_axes (v : Word) : (s.setFeedRate v).axes = s.axes := rfl
@[simp] theorem State.setFeedRate_queue (v : Word) : (s.setFeedRate v).queue = s.queue := rfl
@[simp] theorem State.setFeedRate_mode (v : Word) : (s.setFeedRate v).mode = s.mode := rfl
@[simp] theorem State.setFeedRate_homeOffset (v : Word) : (s.setFeedRate v).homeOffset = s.homeOffset := rfl
@[simp] theorem State.setFeedRate_feedRate (v : Word) : (s.setFeedRate v).feedRate = v := rfl
@[simp] theorem State.setFeedRate_rrSlot (v : Word) : (s.setFeedRate v).rrSlot = s.rrSlot := rfl
@[simp] theorem State.setFeedRate_halted (v : Word) : (s.setFeedRate v).halted = s.halted := rfl
@[simp] theorem State.setFeedRate_faultCause (v : Word) : (s.setFeedRate v).faultCause = s.faultCause := rfl
@[simp] theorem State.setFeedRate_faultAxis (v : Word) : (s.setFeedRate v).faultAxis = s.faultAxis := rfl
@[simp] theorem State.setFeedRate_effects (v : Word) : (s.setFeedRate v).effects = s.effects := rfl
@[simp] theorem State.setFeedRate_rsp (v : Word) : (s.setFeedRate v).rsp = s.rsp := rfl
@[simp] theorem State.setFeedRate_inbox (v : Word) : (s.setFeedRate v).inbox = s.inbox := rfl

/-! ### `setMode` -/
@[simp] theorem State.setMode_table (v : Mode) : (s.setMode v).table = s.table := rfl
@[simp] theorem State.setMode_signalLength (v : Mode) : (s.setMode v).signalLength = s.signalLength := rfl
@[simp] theorem State.setMode_resolution (v : Mode) : (s.setMode v).resolution = s.resolution := rfl
@[simp] theorem State.setMode_defaultFeedRate (v : Mode) : (s.setMode v).defaultFeedRate = s.defaultFeedRate := rfl
@[simp] theorem State.setMode_maxFeedRate (v : Mode) : (s.setMode v).maxFeedRate = s.maxFeedRate := rfl
@[simp] theorem State.setMode_axes (v : Mode) : (s.setMode v).axes = s.axes := rfl
@[simp] theorem State.setMode_queue (v : Mode) : (s.setMode v).queue = s.queue := rfl
@[simp] theorem State.setMode_mode (v : Mode) : (s.setMode v).mode = v := rfl
@[simp] theorem State.setMode_homeOffset (v : Mode) : (s.setMode v).homeOffset = s.homeOffset := rfl
@[simp] theorem State.setMode_feedRate (v : Mode) : (s.setMode v).feedRate = s.feedRate := rfl
@[simp] theorem State.setMode_rrSlot (v : Mode) : (s.setMode v).rrSlot = s.rrSlot := rfl
@[simp] theorem State.setMode_halted (v : Mode) : (s.setMode v).halted = s.halted := rfl
@[simp] theorem State.setMode_faultCause (v : Mode) : (s.setMode v).faultCause = s.faultCause := rfl
@[simp] theorem State.setMode_faultAxis (v : Mode) : (s.setMode v).faultAxis = s.faultAxis := rfl
@[simp] theorem State.setMode_effects (v : Mode) : (s.setMode v).effects = s.effects := rfl
@[simp] theorem State.setMode_rsp (v : Mode) : (s.setMode v).rsp = s.rsp := rfl
@[simp] theorem State.setMode_inbox (v : Mode) : (s.setMode v).inbox = s.inbox := rfl

/-! ### `setHomeOffset` -/
@[simp] theorem State.setHomeOffset_table (a : Axis) (v : Word) : (s.setHomeOffset a v).table = s.table := rfl
@[simp] theorem State.setHomeOffset_signalLength (a : Axis) (v : Word) : (s.setHomeOffset a v).signalLength = s.signalLength := rfl
@[simp] theorem State.setHomeOffset_resolution (a : Axis) (v : Word) : (s.setHomeOffset a v).resolution = s.resolution := rfl
@[simp] theorem State.setHomeOffset_defaultFeedRate (a : Axis) (v : Word) : (s.setHomeOffset a v).defaultFeedRate = s.defaultFeedRate := rfl
@[simp] theorem State.setHomeOffset_maxFeedRate (a : Axis) (v : Word) : (s.setHomeOffset a v).maxFeedRate = s.maxFeedRate := rfl
@[simp] theorem State.setHomeOffset_axes (a : Axis) (v : Word) : (s.setHomeOffset a v).axes = s.axes := rfl
@[simp] theorem State.setHomeOffset_queue (a : Axis) (v : Word) : (s.setHomeOffset a v).queue = s.queue := rfl
@[simp] theorem State.setHomeOffset_mode (a : Axis) (v : Word) : (s.setHomeOffset a v).mode = s.mode := rfl
@[simp] theorem State.setHomeOffset_homeOffset (a : Axis) (v : Word) : (s.setHomeOffset a v).homeOffset = s.homeOffset.set a v := rfl
@[simp] theorem State.setHomeOffset_feedRate (a : Axis) (v : Word) : (s.setHomeOffset a v).feedRate = s.feedRate := rfl
@[simp] theorem State.setHomeOffset_rrSlot (a : Axis) (v : Word) : (s.setHomeOffset a v).rrSlot = s.rrSlot := rfl
@[simp] theorem State.setHomeOffset_halted (a : Axis) (v : Word) : (s.setHomeOffset a v).halted = s.halted := rfl
@[simp] theorem State.setHomeOffset_faultCause (a : Axis) (v : Word) : (s.setHomeOffset a v).faultCause = s.faultCause := rfl
@[simp] theorem State.setHomeOffset_faultAxis (a : Axis) (v : Word) : (s.setHomeOffset a v).faultAxis = s.faultAxis := rfl
@[simp] theorem State.setHomeOffset_effects (a : Axis) (v : Word) : (s.setHomeOffset a v).effects = s.effects := rfl
@[simp] theorem State.setHomeOffset_rsp (a : Axis) (v : Word) : (s.setHomeOffset a v).rsp = s.rsp := rfl
@[simp] theorem State.setHomeOffset_inbox (a : Axis) (v : Word) : (s.setHomeOffset a v).inbox = s.inbox := rfl

/-! ### `setRrSlot` -/
@[simp] theorem State.setRrSlot_table (v : BitVec 2) : (s.setRrSlot v).table = s.table := rfl
@[simp] theorem State.setRrSlot_signalLength (v : BitVec 2) : (s.setRrSlot v).signalLength = s.signalLength := rfl
@[simp] theorem State.setRrSlot_resolution (v : BitVec 2) : (s.setRrSlot v).resolution = s.resolution := rfl
@[simp] theorem State.setRrSlot_defaultFeedRate (v : BitVec 2) : (s.setRrSlot v).defaultFeedRate = s.defaultFeedRate := rfl
@[simp] theorem State.setRrSlot_maxFeedRate (v : BitVec 2) : (s.setRrSlot v).maxFeedRate = s.maxFeedRate := rfl
@[simp] theorem State.setRrSlot_axes (v : BitVec 2) : (s.setRrSlot v).axes = s.axes := rfl
@[simp] theorem State.setRrSlot_queue (v : BitVec 2) : (s.setRrSlot v).queue = s.queue := rfl
@[simp] theorem State.setRrSlot_mode (v : BitVec 2) : (s.setRrSlot v).mode = s.mode := rfl
@[simp] theorem State.setRrSlot_homeOffset (v : BitVec 2) : (s.setRrSlot v).homeOffset = s.homeOffset := rfl
@[simp] theorem State.setRrSlot_feedRate (v : BitVec 2) : (s.setRrSlot v).feedRate = s.feedRate := rfl
@[simp] theorem State.setRrSlot_rrSlot (v : BitVec 2) : (s.setRrSlot v).rrSlot = v := rfl
@[simp] theorem State.setRrSlot_halted (v : BitVec 2) : (s.setRrSlot v).halted = s.halted := rfl
@[simp] theorem State.setRrSlot_faultCause (v : BitVec 2) : (s.setRrSlot v).faultCause = s.faultCause := rfl
@[simp] theorem State.setRrSlot_faultAxis (v : BitVec 2) : (s.setRrSlot v).faultAxis = s.faultAxis := rfl
@[simp] theorem State.setRrSlot_effects (v : BitVec 2) : (s.setRrSlot v).effects = s.effects := rfl
@[simp] theorem State.setRrSlot_rsp (v : BitVec 2) : (s.setRrSlot v).rsp = s.rsp := rfl
@[simp] theorem State.setRrSlot_inbox (v : BitVec 2) : (s.setRrSlot v).inbox = s.inbox := rfl

/-! ### `push` -/
@[simp] theorem State.push_table (c : Bundle) : (s.push c).table = s.table := rfl
@[simp] theorem State.push_signalLength (c : Bundle) : (s.push c).signalLength = s.signalLength := rfl
@[simp] theorem State.push_resolution (c : Bundle) : (s.push c).resolution = s.resolution := rfl
@[simp] theorem State.push_defaultFeedRate (c : Bundle) : (s.push c).defaultFeedRate = s.defaultFeedRate := rfl
@[simp] theorem State.push_maxFeedRate (c : Bundle) : (s.push c).maxFeedRate = s.maxFeedRate := rfl
@[simp] theorem State.push_axes (c : Bundle) : (s.push c).axes = s.axes := rfl
@[simp] theorem State.push_queue (c : Bundle) : (s.push c).queue = s.queue ++ [c] := rfl
@[simp] theorem State.push_mode (c : Bundle) : (s.push c).mode = s.mode := rfl
@[simp] theorem State.push_homeOffset (c : Bundle) : (s.push c).homeOffset = s.homeOffset := rfl
@[simp] theorem State.push_feedRate (c : Bundle) : (s.push c).feedRate = s.feedRate := rfl
@[simp] theorem State.push_rrSlot (c : Bundle) : (s.push c).rrSlot = s.rrSlot := rfl
@[simp] theorem State.push_halted (c : Bundle) : (s.push c).halted = s.halted := rfl
@[simp] theorem State.push_faultCause (c : Bundle) : (s.push c).faultCause = s.faultCause := rfl
@[simp] theorem State.push_faultAxis (c : Bundle) : (s.push c).faultAxis = s.faultAxis := rfl
@[simp] theorem State.push_effects (c : Bundle) : (s.push c).effects = s.effects := rfl
@[simp] theorem State.push_rsp (c : Bundle) : (s.push c).rsp = s.rsp := rfl
@[simp] theorem State.push_inbox (c : Bundle) : (s.push c).inbox = s.inbox := rfl

/-! ### `pop` -/
@[simp] theorem State.pop_table : (s.pop).table = s.table := rfl
@[simp] theorem State.pop_signalLength : (s.pop).signalLength = s.signalLength := rfl
@[simp] theorem State.pop_resolution : (s.pop).resolution = s.resolution := rfl
@[simp] theorem State.pop_defaultFeedRate : (s.pop).defaultFeedRate = s.defaultFeedRate := rfl
@[simp] theorem State.pop_maxFeedRate : (s.pop).maxFeedRate = s.maxFeedRate := rfl
@[simp] theorem State.pop_axes : (s.pop).axes = s.axes := rfl
@[simp] theorem State.pop_queue : (s.pop).queue = s.queue.drop 1 := rfl
@[simp] theorem State.pop_mode : (s.pop).mode = s.mode := rfl
@[simp] theorem State.pop_homeOffset : (s.pop).homeOffset = s.homeOffset := rfl
@[simp] theorem State.pop_feedRate : (s.pop).feedRate = s.feedRate := rfl
@[simp] theorem State.pop_rrSlot : (s.pop).rrSlot = s.rrSlot := rfl
@[simp] theorem State.pop_halted : (s.pop).halted = s.halted := rfl
@[simp] theorem State.pop_faultCause : (s.pop).faultCause = s.faultCause := rfl
@[simp] theorem State.pop_faultAxis : (s.pop).faultAxis = s.faultAxis := rfl
@[simp] theorem State.pop_effects : (s.pop).effects = s.effects := rfl
@[simp] theorem State.pop_rsp : (s.pop).rsp = s.rsp := rfl
@[simp] theorem State.pop_inbox : (s.pop).inbox = s.inbox := rfl

/-! ### `respond` -/
@[simp] theorem State.respond_table (st : RspStatus) (b : Bool) (d : Word) : (s.respond st b d).table = s.table := rfl
@[simp] theorem State.respond_signalLength (st : RspStatus) (b : Bool) (d : Word) : (s.respond st b d).signalLength = s.signalLength := rfl
@[simp] theorem State.respond_resolution (st : RspStatus) (b : Bool) (d : Word) : (s.respond st b d).resolution = s.resolution := rfl
@[simp] theorem State.respond_defaultFeedRate (st : RspStatus) (b : Bool) (d : Word) : (s.respond st b d).defaultFeedRate = s.defaultFeedRate := rfl
@[simp] theorem State.respond_maxFeedRate (st : RspStatus) (b : Bool) (d : Word) : (s.respond st b d).maxFeedRate = s.maxFeedRate := rfl
@[simp] theorem State.respond_axes (st : RspStatus) (b : Bool) (d : Word) : (s.respond st b d).axes = s.axes := rfl
@[simp] theorem State.respond_queue (st : RspStatus) (b : Bool) (d : Word) : (s.respond st b d).queue = s.queue := rfl
@[simp] theorem State.respond_mode (st : RspStatus) (b : Bool) (d : Word) : (s.respond st b d).mode = s.mode := rfl
@[simp] theorem State.respond_homeOffset (st : RspStatus) (b : Bool) (d : Word) : (s.respond st b d).homeOffset = s.homeOffset := rfl
@[simp] theorem State.respond_feedRate (st : RspStatus) (b : Bool) (d : Word) : (s.respond st b d).feedRate = s.feedRate := rfl
@[simp] theorem State.respond_rrSlot (st : RspStatus) (b : Bool) (d : Word) : (s.respond st b d).rrSlot = s.rrSlot := rfl
@[simp] theorem State.respond_halted (st : RspStatus) (b : Bool) (d : Word) : (s.respond st b d).halted = s.halted := rfl
@[simp] theorem State.respond_faultCause (st : RspStatus) (b : Bool) (d : Word) : (s.respond st b d).faultCause = s.faultCause := rfl
@[simp] theorem State.respond_faultAxis (st : RspStatus) (b : Bool) (d : Word) : (s.respond st b d).faultAxis = s.faultAxis := rfl
@[simp] theorem State.respond_effects (st : RspStatus) (b : Bool) (d : Word) : (s.respond st b d).effects = s.effects := rfl
@[simp] theorem State.respond_rsp (st : RspStatus) (b : Bool) (d : Word) : (s.respond st b d).rsp = some (rspWord st b d) := rfl
@[simp] theorem State.respond_inbox (st : RspStatus) (b : Bool) (d : Word) : (s.respond st b d).inbox = s.inbox := rfl

/-! ### `begin` -/
@[simp] theorem State.begin_table : (s.begin).table = s.table := rfl
@[simp] theorem State.begin_signalLength : (s.begin).signalLength = s.signalLength := rfl
@[simp] theorem State.begin_resolution : (s.begin).resolution = s.resolution := rfl
@[simp] theorem State.begin_defaultFeedRate : (s.begin).defaultFeedRate = s.defaultFeedRate := rfl
@[simp] theorem State.begin_maxFeedRate : (s.begin).maxFeedRate = s.maxFeedRate := rfl
@[simp] theorem State.begin_axes : (s.begin).axes = s.axes := rfl
@[simp] theorem State.begin_queue : (s.begin).queue = s.queue := rfl
@[simp] theorem State.begin_mode : (s.begin).mode = s.mode := rfl
@[simp] theorem State.begin_homeOffset : (s.begin).homeOffset = s.homeOffset := rfl
@[simp] theorem State.begin_feedRate : (s.begin).feedRate = s.feedRate := rfl
@[simp] theorem State.begin_rrSlot : (s.begin).rrSlot = s.rrSlot := rfl
@[simp] theorem State.begin_halted : (s.begin).halted = s.halted := rfl
@[simp] theorem State.begin_faultCause : (s.begin).faultCause = s.faultCause := rfl
@[simp] theorem State.begin_faultAxis : (s.begin).faultAxis = s.faultAxis := rfl
@[simp] theorem State.begin_effects : (s.begin).effects = [] := rfl
@[simp] theorem State.begin_rsp : (s.begin).rsp = s.rsp := rfl
@[simp] theorem State.begin_inbox : (s.begin).inbox = s.inbox := rfl

/-! ### `setPulse` -/
@[simp] theorem State.setPulse_table (a : Axis) (v : Bool) : (s.setPulse a v).table = s.table := rfl
@[simp] theorem State.setPulse_signalLength (a : Axis) (v : Bool) : (s.setPulse a v).signalLength = s.signalLength := rfl
@[simp] theorem State.setPulse_resolution (a : Axis) (v : Bool) : (s.setPulse a v).resolution = s.resolution := rfl
@[simp] theorem State.setPulse_defaultFeedRate (a : Axis) (v : Bool) : (s.setPulse a v).defaultFeedRate = s.defaultFeedRate := rfl
@[simp] theorem State.setPulse_maxFeedRate (a : Axis) (v : Bool) : (s.setPulse a v).maxFeedRate = s.maxFeedRate := rfl
@[simp] theorem State.setPulse_axes (a : Axis) (v : Bool) : (s.setPulse a v).axes = s.axes.set a { s.axis a with pulseHigh := v } := rfl
@[simp] theorem State.setPulse_queue (a : Axis) (v : Bool) : (s.setPulse a v).queue = s.queue := rfl
@[simp] theorem State.setPulse_mode (a : Axis) (v : Bool) : (s.setPulse a v).mode = s.mode := rfl
@[simp] theorem State.setPulse_homeOffset (a : Axis) (v : Bool) : (s.setPulse a v).homeOffset = s.homeOffset := rfl
@[simp] theorem State.setPulse_feedRate (a : Axis) (v : Bool) : (s.setPulse a v).feedRate = s.feedRate := rfl
@[simp] theorem State.setPulse_rrSlot (a : Axis) (v : Bool) : (s.setPulse a v).rrSlot = s.rrSlot := rfl
@[simp] theorem State.setPulse_halted (a : Axis) (v : Bool) : (s.setPulse a v).halted = s.halted := rfl
@[simp] theorem State.setPulse_faultCause (a : Axis) (v : Bool) : (s.setPulse a v).faultCause = s.faultCause := rfl
@[simp] theorem State.setPulse_faultAxis (a : Axis) (v : Bool) : (s.setPulse a v).faultAxis = s.faultAxis := rfl
@[simp] theorem State.setPulse_effects (a : Axis) (v : Bool) : (s.setPulse a v).effects = s.effects := rfl
@[simp] theorem State.setPulse_rsp (a : Axis) (v : Bool) : (s.setPulse a v).rsp = s.rsp := rfl
@[simp] theorem State.setPulse_inbox (a : Axis) (v : Bool) : (s.setPulse a v).inbox = s.inbox := rfl

/-! ### `setIdle` -/
@[simp] theorem State.setIdle_table (a : Axis) : (s.setIdle a).table = s.table := rfl
@[simp] theorem State.setIdle_signalLength (a : Axis) : (s.setIdle a).signalLength = s.signalLength := rfl
@[simp] theorem State.setIdle_resolution (a : Axis) : (s.setIdle a).resolution = s.resolution := rfl
@[simp] theorem State.setIdle_defaultFeedRate (a : Axis) : (s.setIdle a).defaultFeedRate = s.defaultFeedRate := rfl
@[simp] theorem State.setIdle_maxFeedRate (a : Axis) : (s.setIdle a).maxFeedRate = s.maxFeedRate := rfl
@[simp] theorem State.setIdle_axes (a : Axis) : (s.setIdle a).axes = s.axes.set a { s.axis a with nextEventTime := 0#64 } := rfl
@[simp] theorem State.setIdle_queue (a : Axis) : (s.setIdle a).queue = s.queue := rfl
@[simp] theorem State.setIdle_mode (a : Axis) : (s.setIdle a).mode = s.mode := rfl
@[simp] theorem State.setIdle_homeOffset (a : Axis) : (s.setIdle a).homeOffset = s.homeOffset := rfl
@[simp] theorem State.setIdle_feedRate (a : Axis) : (s.setIdle a).feedRate = s.feedRate := rfl
@[simp] theorem State.setIdle_rrSlot (a : Axis) : (s.setIdle a).rrSlot = s.rrSlot := rfl
@[simp] theorem State.setIdle_halted (a : Axis) : (s.setIdle a).halted = s.halted := rfl
@[simp] theorem State.setIdle_faultCause (a : Axis) : (s.setIdle a).faultCause = s.faultCause := rfl
@[simp] theorem State.setIdle_faultAxis (a : Axis) : (s.setIdle a).faultAxis = s.faultAxis := rfl
@[simp] theorem State.setIdle_effects (a : Axis) : (s.setIdle a).effects = s.effects := rfl
@[simp] theorem State.setIdle_rsp (a : Axis) : (s.setIdle a).rsp = s.rsp := rfl
@[simp] theorem State.setIdle_inbox (a : Axis) : (s.setIdle a).inbox = s.inbox := rfl

/-! ### `takeInput` -/
@[simp] theorem State.takeInput_table (rest : List HostInput) : (s.takeInput rest).table = s.table := rfl
@[simp] theorem State.takeInput_signalLength (rest : List HostInput) : (s.takeInput rest).signalLength = s.signalLength := rfl
@[simp] theorem State.takeInput_resolution (rest : List HostInput) : (s.takeInput rest).resolution = s.resolution := rfl
@[simp] theorem State.takeInput_defaultFeedRate (rest : List HostInput) : (s.takeInput rest).defaultFeedRate = s.defaultFeedRate := rfl
@[simp] theorem State.takeInput_maxFeedRate (rest : List HostInput) : (s.takeInput rest).maxFeedRate = s.maxFeedRate := rfl
@[simp] theorem State.takeInput_axes (rest : List HostInput) : (s.takeInput rest).axes = s.axes := rfl
@[simp] theorem State.takeInput_queue (rest : List HostInput) : (s.takeInput rest).queue = s.queue := rfl
@[simp] theorem State.takeInput_mode (rest : List HostInput) : (s.takeInput rest).mode = s.mode := rfl
@[simp] theorem State.takeInput_homeOffset (rest : List HostInput) : (s.takeInput rest).homeOffset = s.homeOffset := rfl
@[simp] theorem State.takeInput_feedRate (rest : List HostInput) : (s.takeInput rest).feedRate = s.feedRate := rfl
@[simp] theorem State.takeInput_rrSlot (rest : List HostInput) : (s.takeInput rest).rrSlot = s.rrSlot := rfl
@[simp] theorem State.takeInput_halted (rest : List HostInput) : (s.takeInput rest).halted = s.halted := rfl
@[simp] theorem State.takeInput_faultCause (rest : List HostInput) : (s.takeInput rest).faultCause = s.faultCause := rfl
@[simp] theorem State.takeInput_faultAxis (rest : List HostInput) : (s.takeInput rest).faultAxis = s.faultAxis := rfl
@[simp] theorem State.takeInput_effects (rest : List HostInput) : (s.takeInput rest).effects = s.effects := rfl
@[simp] theorem State.takeInput_rsp (rest : List HostInput) : (s.takeInput rest).rsp = s.rsp := rfl
@[simp] theorem State.takeInput_inbox (rest : List HostInput) : (s.takeInput rest).inbox = rest := rfl

/-! ### `takeFault` -/

section TakeFault
variable (c : FaultCause) (a : Option Axis)
@[simp] theorem takeFault_table : (takeFault s c a).table = s.table := rfl
@[simp] theorem takeFault_signalLength : (takeFault s c a).signalLength = s.signalLength := rfl
@[simp] theorem takeFault_resolution : (takeFault s c a).resolution = s.resolution := rfl
@[simp] theorem takeFault_defaultFeedRate : (takeFault s c a).defaultFeedRate = s.defaultFeedRate := rfl
@[simp] theorem takeFault_maxFeedRate : (takeFault s c a).maxFeedRate = s.maxFeedRate := rfl
@[simp] theorem takeFault_axes : (takeFault s c a).axes = s.axes := rfl
@[simp] theorem takeFault_queue : (takeFault s c a).queue = s.queue := rfl
@[simp] theorem takeFault_mode : (takeFault s c a).mode = s.mode := rfl
@[simp] theorem takeFault_homeOffset : (takeFault s c a).homeOffset = s.homeOffset := rfl
@[simp] theorem takeFault_feedRate : (takeFault s c a).feedRate = s.feedRate := rfl
@[simp] theorem takeFault_rrSlot : (takeFault s c a).rrSlot = s.rrSlot := rfl
@[simp] theorem takeFault_halted : (takeFault s c a).halted = true := rfl
@[simp] theorem takeFault_faultCause : (takeFault s c a).faultCause = c := rfl
@[simp] theorem takeFault_faultAxis : (takeFault s c a).faultAxis = a := rfl
@[simp] theorem takeFault_effects : (takeFault s c a).effects = [.diag .fault (faultId c a)] := rfl
@[simp] theorem takeFault_rsp : (takeFault s c a).rsp = some (rspWord .halted false 0#32) := rfl
@[simp] theorem takeFault_inbox : (takeFault s c a).inbox = s.inbox := rfl
end TakeFault

end Updates

/-! ### One value per axis -/

section PerAxisLaws
variable {α : Type} (p : PerAxis α) (a b : Axis) (v w : α)

@[simp] theorem PerAxis.get_set_same : (p.set a v).get a = v := by cases a <;> rfl

theorem PerAxis.get_set_of_ne (h : b ≠ a) : (p.set a v).get b = p.get b := by
  cases a <;> cases b <;> first | rfl | exact absurd rfl h

theorem PerAxis.get_set : (p.set a v).get b = if b = a then v else p.get b := by
  cases a <;> cases b <;> rfl

@[simp] theorem PerAxis.set_set : (p.set a v).set a w = p.set a w := by cases a <;> rfl

@[simp] theorem PerAxis.set_get : p.set a (p.get a) = p := by cases a <;> rfl

theorem PerAxis.ext_get {q : PerAxis α} (h : ∀ c, p.get c = q.get c) : p = q := by
  cases p; cases q
  have hx := h .x; have hy := h .y; have hz := h .z
  simp only [PerAxis.get] at hx hy hz
  subst hx hy hz; rfl

end PerAxisLaws

/-! ### The axis units of an updated state -/

section AxisLaws
variable (s : State) (a b : Axis) (u v : AxisUnit)

@[simp] theorem State.axis_setAxis_same : (s.setAxis a u).axis a = u := by simp [State.axis]

theorem State.axis_setAxis_of_ne (h : b ≠ a) : (s.setAxis a u).axis b = s.axis b := by
  simp [State.axis, PerAxis.get_set_of_ne _ _ _ _ h]

theorem State.axis_setAxis : (s.setAxis a u).axis b = if b = a then u else s.axis b := by
  simp [State.axis, PerAxis.get_set]

@[simp] theorem State.setAxis_setAxis : (s.setAxis a u).setAxis a v = s.setAxis a v := by
  simp [State.setAxis]

@[simp] theorem State.setAxis_axis : s.setAxis a (s.axis a) = s := by simp [State.setAxis, State.axis]

@[simp] theorem State.rampLen_setAxis : (s.setAxis a u).rampLen = s.rampLen := rfl
@[simp] theorem State.axis_emit (e : Effect) : (s.emit e).axis a = s.axis a := rfl
@[simp] theorem State.axis_setFeedRate (w : Word) : (s.setFeedRate w).axis a = s.axis a := rfl
@[simp] theorem State.axis_setMode (m : Mode) : (s.setMode m).axis a = s.axis a := rfl
@[simp] theorem State.axis_setHomeOffset (w : Word) : (s.setHomeOffset b w).axis a = s.axis a := rfl
@[simp] theorem State.axis_setRrSlot (r : BitVec 2) : (s.setRrSlot r).axis a = s.axis a := rfl
@[simp] theorem State.axis_push (c : Bundle) : (s.push c).axis a = s.axis a := rfl
@[simp] theorem State.axis_pop : s.pop.axis a = s.axis a := rfl
@[simp] theorem State.axis_respond (st : RspStatus) (c : Bool) (d : Word) :
    (s.respond st c d).axis a = s.axis a := rfl
@[simp] theorem State.axis_begin : s.begin.axis a = s.axis a := rfl
@[simp] theorem State.axis_takeInput (rest : List HostInput) : (s.takeInput rest).axis a = s.axis a := rfl
@[simp] theorem State.axis_takeFault (c : FaultCause) (x : Option Axis) : (takeFault s c x).axis a = s.axis a := rfl

@[simp] theorem State.onTarget_emit (e : Effect) : (s.emit e).onTarget a = s.onTarget a := rfl
@[simp] theorem State.onTarget_begin : s.begin.onTarget a = s.onTarget a := rfl
@[simp] theorem State.onTarget_setRrSlot (r : BitVec 2) : (s.setRrSlot r).onTarget a = s.onTarget a := rfl
@[simp] theorem State.onTarget_push (c : Bundle) : (s.push c).onTarget a = s.onTarget a := rfl
@[simp] theorem State.onTarget_pop : s.pop.onTarget a = s.onTarget a := rfl
@[simp] theorem State.allOnTarget_begin : s.begin.allOnTarget = s.allOnTarget := rfl
@[simp] theorem State.allOnTarget_push (c : Bundle) : (s.push c).allOnTarget = s.allOnTarget := rfl
@[simp] theorem State.allOnTarget_pop : s.pop.allOnTarget = s.allOnTarget := rfl
@[simp] theorem State.executing_begin : s.begin.executing = s.executing := rfl

theorem State.allOnTarget_iff : s.allOnTarget = true ↔ ∀ c, s.onTarget c = true := by
  constructor
  · intro h c
    simp only [State.allOnTarget, Bool.and_eq_true] at h
    cases c
    · exact h.1.1
    · exact h.1.2
    · exact h.2
  · intro h
    simp [State.allOnTarget, h]

end AxisLaws

end Sys2Proof.Machine
end

