-- ==== Sys2Proof/Laws/Ops.lean ====
section
/-! SUPPORT. Laws/Ops.lean: for each shared operation of Machine/Ops.lean, once, everything it can do. -/

namespace Sys2Proof.Machine

open Sys2Proof

/-! ## Sequencing -/

theorem bind_eq_ok {α β : Type} {m : Except Stop α} {f : α → Except Stop β} {b : β} :
    m >>= f = .ok b ↔ ∃ a, m = .ok a ∧ f a = .ok b := by
  cases m with
  | ok a => exact ⟨fun h => ⟨a, rfl, h⟩, fun ⟨_, h, hf⟩ => by cases h; exact hf⟩
  | error e => exact ⟨fun h => (by cases h), fun ⟨_, h, _⟩ => by cases h⟩

theorem bind_eq_error {α β : Type} {m : Except Stop α} {f : α → Except Stop β} {e : Stop} :
    m >>= f = .error e ↔ m = .error e ∨ ∃ a, m = .ok a ∧ f a = .error e := by
  cases m with
  | ok a => exact ⟨fun h => .inr ⟨a, rfl, h⟩, fun h => by
      rcases h with h | ⟨_, h, hf⟩
      · cases h
      · cases h; exact hf⟩
  | error e' => exact ⟨fun h => .inl (by cases h; rfl), fun h => by
      rcases h with h | ⟨_, h, _⟩
      · cases h; rfl
      · cases h⟩

@[simp] theorem ok_bind {α β : Type} (a : α) (f : α → Except Stop β) : (Except.ok a >>= f) = f a := rfl
@[simp] theorem error_bind {α β : Type} (e : Stop) (f : α → Except Stop β) :
    ((Except.error e : Except Stop α) >>= f) = .error e := rfl
@[simp] theorem pure_eq_ok {α : Type} (a : α) : (pure a : Except Stop α) = .ok a := rfl

/-! ## The table and the schedule -/

theorem tableRead_eq_ok {i : Nat} {s : State} {d : Word} : tableRead i s = .ok d ↔ s.table[i]? = some d := by
  unfold tableRead
  cases h : s.table[i]? <;> simp

theorem tableRead_of_lt {i : Nat} {s : State} (h : i < s.rampLen) : tableRead i s = .ok (s.table[i]'h) := by
  rw [tableRead_eq_ok]
  exact List.getElem?_eq_getElem h

theorem tableRead_eq_error {i : Nat} {s : State} {e : Stop} (h : tableRead i s = .error e) :
    s.rampLen ≤ i ∧ e = .outside .tableIndexOutside := by
  unfold tableRead at h
  cases hi : s.table[i]? with
  | some d => rw [hi] at h; cases h
  | none =>
    rw [hi] at h
    cases h
    exact ⟨List.getElem?_eq_none_iff.mp hi, rfl⟩

theorem schedule_cases (a : Axis) (t : Nat) (s : State) :
    (t < 2 ^ 64 ∧ schedule a t s = .ok (s.setAxis a { s.axis a with nextEventTime := BitVec.ofNat 64 t })) ∨
    (2 ^ 64 ≤ t ∧ schedule a t s = .error (.raised .timeOverflow (some a))) := by
  by_cases h : 2 ^ 64 ≤ t
  · exact .inr ⟨h, by simp only [schedule, if_pos h]⟩
  · exact .inl ⟨by omega, by simp only [schedule, if_neg h]⟩

/-! ## Committing an operation -/

theorem commit_eq_next {s t : State} {m : Micro} :
    commit s m = .next t ↔
      m = .ok t ∨ ∃ cause axis, m = .error (.raised cause axis) ∧ t = takeFault s cause axis := by
  rcases m with (⟨c, a⟩ | f) | u
  · simp [commit, eq_comm]
  · simp [commit]
  · simp [commit]

theorem commit_eq_fault {s : State} {m : Micro} {f : Fault} :
    commit s m = .fault f ↔ m = .error (.outside f) := by
  rcases m with (⟨c, a⟩ | f') | u <;> simp [commit]

theorem commit_ne_refused {s : State} {m : Micro} {r : Refusal} : commit s m ≠ .refused r := by
  rcases m with (⟨c, a⟩ | f') | u <;> simp [commit]

theorem runRequest_of_halted {s : State} (h : s.halted = true) (body : State → Micro) :
    runRequest body s = .next (s.begin.respond .halted false 0#32) := by simp [runRequest, h]

theorem runRequest_of_running {s : State} (h : s.halted = false) (body : State → Micro) :
    runRequest body s = commit s.begin (body s.begin) := by simp [runRequest, h]

theorem runCommand_of_halted {s : State} (h : s.halted = true) (body : State → Micro) :
    runCommand body s = .next s.begin := by simp [runCommand, h]

theorem runCommand_of_running {s : State} (h : s.halted = false) (body : State → Micro) :
    runCommand body s = commit s.begin (body s.begin) := by simp [runCommand, h]

/-- What a request that writes can answer. -/
theorem runRequest_cases {s t : State} {body : State → Micro} (h : runRequest body s = .next t) :
    (s.halted = true ∧ t = s.begin.respond .halted false 0#32) ∨
    (s.halted = false ∧ body s.begin = .ok t) ∨
    (s.halted = false ∧ ∃ cause axis, body s.begin = .error (.raised cause axis) ∧ t = takeFault s.begin cause axis) := by
  cases hs : s.halted with
  | true => rw [runRequest_of_halted hs] at h; cases h; exact .inl ⟨rfl, rfl⟩
  | false =>
    rw [runRequest_of_running hs, commit_eq_next] at h
    exact h.elim (fun h => .inr (.inl ⟨rfl, h⟩)) (fun h => .inr (.inr ⟨rfl, h⟩))

/-- What a command by itself can answer. -/
theorem runCommand_cases {s t : State} {body : State → Micro} (h : runCommand body s = .next t) :
    (s.halted = true ∧ t = s.begin) ∨
    (s.halted = false ∧ body s.begin = .ok t) ∨
    (s.halted = false ∧ ∃ cause axis, body s.begin = .error (.raised cause axis) ∧ t = takeFault s.begin cause axis) := by
  cases hs : s.halted with
  | true => rw [runCommand_of_halted hs] at h; cases h; exact .inl ⟨rfl, rfl⟩
  | false =>
    rw [runCommand_of_running hs, commit_eq_next] at h
    exact h.elim (fun h => .inr (.inl ⟨rfl, h⟩)) (fun h => .inr (.inr ⟨rfl, h⟩))

@[simp] theorem takeFault_begin (s : State) (c : FaultCause) (a : Option Axis) :
    takeFault s.begin c a = takeFault s c a := rfl

/-! ## Integers -/

theorem isqrtFuel_spec (fuel : Nat) : ∀ n, n < 4 ^ fuel →
    isqrtFuel fuel n * isqrtFuel fuel n ≤ n ∧ n < (isqrtFuel fuel n + 1) * (isqrtFuel fuel n + 1) := by
  induction fuel with
  | zero => intro n h; simp only [isqrtFuel]; simp at h; omega
  | succ k ih =>
    intro n h
    have hq : n / 4 < 4 ^ k := by rw [pow_succ] at h; omega
    obtain ⟨h1, h2⟩ := ih (n / 4) hq
    simp only [isqrtFuel]
    generalize isqrtFuel k (n / 4) = q at h1 h2
    have e1 : 2 * q * (2 * q) = 4 * (q * q) := by ring
    have e2 : (2 * q + 1 + 1) * (2 * q + 1 + 1) = 4 * ((q + 1) * (q + 1)) := by ring
    split
    · rename_i hr
      exact ⟨hr, by omega⟩
    · rename_i hr
      exact ⟨by omega, by omega⟩

/-- `isqrt n` is the largest r with r·r ≤ n (00_scope.md R10). -/
theorem isqrt_spec (n : Nat) : isqrt n * isqrt n ≤ n ∧ n < (isqrt n + 1) * (isqrt n + 1) := by
  refine isqrtFuel_spec _ n (lt_of_lt_of_le Nat.lt_log2_self ?_)
  exact Nat.pow_le_pow_left (by norm_num) _

theorem le_isqrt {n k : Nat} (h : k * k ≤ n) : k ≤ isqrt n := by
  by_contra hk
  have := (isqrt_spec n).2
  have : (isqrt n + 1) * (isqrt n + 1) ≤ k * k := Nat.mul_le_mul (by omega) (by omega)
  omega

theorem inI32_iff {v : Int} : inI32 v = true ↔ -2147483648 ≤ v ∧ v ≤ 2147483647 := by simp [inI32]

/-- An integer in i32 survives being stored and read back. -/
theorem toInt_ofInt_of_inI32 {v : Int} (h : inI32 v = true) : (BitVec.ofInt 32 v).toInt = v := by
  rw [inI32_iff] at h
  rw [BitVec.toInt_ofInt]
  exact Int.bmod_eq_of_le (by norm_num; omega) (by norm_num; omega)

theorem inI32_toInt (w : Word) : inI32 w.toInt = true := by
  rw [inI32_iff]
  have h1 := BitVec.le_toInt w
  have h2 := BitVec.toInt_lt (x := w)
  norm_num at h1 h2
  omega

@[simp] theorem signOf_zero : signOf 0 = .still := rfl
theorem signOf_of_pos {v : Int} (h : 0 < v) : signOf v = .positive := by
  unfold signOf; rw [if_neg (by omega), if_pos h]
theorem signOf_of_neg {v : Int} (h : v < 0) : signOf v = .negative := by
  unfold signOf; rw [if_pos h]

end Sys2Proof.Machine
end

