-- ==== Sys2Proof/Laws/Axis.lean ====
section
/-! SUPPORT. Laws/Axis.lean: everything the micro-operations of one axis can do (AxisRamp, PulseScheduler, AxisUnit). -/

namespace Sys2Proof.Machine

open Sys2Proof

/-! ## RampNext -/

/-- What `RampNext` writes when it finds a step. -/
theorem rampNext_cases {a : Axis} {s t : State} {r : Option Word} (h : rampNext a s = .ok (r, t)) :
    ((s.axis a).position = (s.axis a).target ∧ r = none ∧ t = s) ∨
    ((s.axis a).position ≠ (s.axis a).target ∧ ∃ d k, r = some d ∧
      t = s.setAxis a { (s.axis a).advance with accIndex := k } ∧
      (((s.axis a).advance.mustDecelerate = true ∧ k = (s.axis a).accIndex - 1 ∧ s.table[k]? = some d) ∨
       ((s.axis a).advance.mustDecelerate = false ∧ k = (s.axis a).accIndex ∧ d = (s.axis a).cruiseDelay ∧
          ∃ e, s.table[(s.axis a).accIndex]? = some e ∧ e.toNat ≤ d.toNat) ∨
       ((s.axis a).advance.mustDecelerate = false ∧ k = min ((s.axis a).accIndex + 1) (s.rampLen - 1) ∧
          s.table[(s.axis a).accIndex]? = some d ∧ (s.axis a).cruiseDelay.toNat < d.toNat))) := by
  unfold rampNext at h
  by_cases hp : (s.axis a).position = (s.axis a).target
  · rw [if_pos hp] at h
    cases h
    exact .inl ⟨hp, rfl, rfl⟩
  · rw [if_neg hp] at h
    refine .inr ⟨hp, ?_⟩
    cases hd : (s.axis a).advance.mustDecelerate with
    | true =>
      simp only [hd, if_true] at h
      obtain ⟨d, hr, hk⟩ := bind_eq_ok.mp h
      cases hk
      exact ⟨d, _, rfl, rfl, .inl ⟨rfl, rfl, tableRead_eq_ok.mp hr⟩⟩
    | false =>
      simp only [hd, Bool.false_eq_true, if_false] at h
      obtain ⟨d, hr, hk⟩ := bind_eq_ok.mp h
      have hr := tableRead_eq_ok.mp hr
      by_cases hc : d.toNat ≤ (s.axis a).advance.cruiseDelay.toNat
      · rw [if_pos hc] at hk
        cases hk
        exact ⟨_, _, rfl, rfl, .inr (.inl ⟨rfl, rfl, rfl, d, hr, hc⟩)⟩
      · rw [if_neg hc] at hk
        cases hk
        exact ⟨_, _, rfl, rfl, .inr (.inr ⟨rfl, rfl, hr, by exact Nat.lt_of_not_le hc⟩)⟩

/-- With a valid index `RampNext` finds a step wherever the axis is off its target, and the new index is valid. -/
theorem rampNext_of_valid {a : Axis} {s : State} (hp : (s.axis a).position ≠ (s.axis a).target)
    (hk : (s.axis a).accIndex < s.rampLen) :
    ∃ d k, k < s.rampLen ∧ rampNext a s = .ok (some d, s.setAxis a { (s.axis a).advance with accIndex := k }) := by
  have hadv : (s.axis a).advance.accIndex = (s.axis a).accIndex := rfl
  unfold rampNext
  rw [if_neg hp]
  cases hd : (s.axis a).advance.mustDecelerate with
  | true =>
    have hlt : (s.axis a).accIndex - 1 < s.rampLen := by omega
    simp only [hd, if_true, hadv, tableRead_of_lt hlt, ok_bind, pure_eq_ok]
    exact ⟨_, _, hlt, rfl⟩
  | false =>
    simp only [hd, Bool.false_eq_true, if_false, hadv, tableRead_of_lt hk, ok_bind, pure_eq_ok]
    split
    · exact ⟨_, (s.axis a).accIndex, hk, rfl⟩
    · exact ⟨_, _, by omega, rfl⟩

theorem rampNext_of_onTarget {a : Axis} {s : State} (hp : (s.axis a).position = (s.axis a).target) :
    rampNext a s = .ok (none, s) := by unfold rampNext; rw [if_pos hp]

/-- `RampNext` fails only by reading an entry past the table. -/
theorem rampNext_eq_error {a : Axis} {s : State} {e : Stop} (h : rampNext a s = .error e) :
    s.rampLen ≤ (s.axis a).accIndex ∧ e = .outside .tableIndexOutside := by
  unfold rampNext at h
  by_cases hp : (s.axis a).position = (s.axis a).target
  · rw [if_pos hp] at h; cases h
  · rw [if_neg hp] at h
    have hadv : (s.axis a).advance.accIndex = (s.axis a).accIndex := rfl
    cases hd : (s.axis a).advance.mustDecelerate with
    | true =>
      simp only [hd, if_true, hadv] at h
      rcases bind_eq_error.mp h with h | ⟨_, _, h⟩
      · have := tableRead_eq_error h
        exact ⟨by omega, this.2⟩
      · cases h
    | false =>
      simp only [hd, Bool.false_eq_true, if_false, hadv] at h
      rcases bind_eq_error.mp h with h | ⟨d, _, h⟩
      · exact tableRead_eq_error h
      · split at h <;> cases h

/-! ## The step toward the target -/

theorem toInt_ne_of_ne {v w : Word} (h : v ≠ w) : v.toInt ≠ w.toInt := fun e => h (BitVec.eq_of_toInt_eq e)

/-- One step toward the target stays in i32 and shortens the way by one (41_axis_ramp.md R113). -/
theorem advance_of_points {u : AxisUnit} (hne : u.position ≠ u.target) (hd : u.direction = signOf u.displacement) :
    u.advance.position.toInt = u.position.toInt + u.direction.toInt ∧
    u.advance.displacement = u.displacement - u.direction.toInt ∧
    u.displacement ≠ 0 := by
  have ht := inI32_iff.mp (inI32_toInt u.target)
  have hp := inI32_iff.mp (inI32_toInt u.position)
  have hne' := toInt_ne_of_ne hne
  have hpos : u.advance.position.toInt = u.position.toInt + u.direction.toInt := by
    have hdisp : u.displacement = u.target.toInt - u.position.toInt := rfl
    rcases lt_trichotomy u.displacement 0 with hlt | heq | hgt
    · rw [signOf_of_neg hlt] at hd
      simp only [AxisUnit.advance, hd, Direction.toInt]
      rw [BitVec.toInt_add]
      simp only [BitVec.toInt_ofInt]
      rw [Int.bmod_eq_of_le (n := -1) (by norm_num) (by norm_num)]
      exact Int.bmod_eq_of_le (by norm_num; omega) (by norm_num; omega)
    · omega
    · rw [signOf_of_pos hgt] at hd
      simp only [AxisUnit.advance, hd, Direction.toInt]
      rw [BitVec.toInt_add]
      simp only [BitVec.toInt_ofInt]
      rw [Int.bmod_eq_of_le (n := 1) (by norm_num) (by norm_num)]
      exact Int.bmod_eq_of_le (by norm_num; omega) (by norm_num; omega)
  refine ⟨hpos, ?_, ?_⟩
  · have ht' : u.advance.target = u.target := rfl
    simp only [AxisUnit.displacement, hpos, ht']
    omega
  · simp only [AxisUnit.displacement]; omega

theorem signOf_sub_signOf {v : Int} (h : v - (signOf v).toInt ≠ 0) : signOf (v - (signOf v).toInt) = signOf v := by
  rcases lt_trichotomy v 0 with hv | hv | hv
  · rw [signOf_of_neg hv] at h ⊢
    simp only [Direction.toInt] at h ⊢
    exact signOf_of_neg (by omega)
  · subst hv; rfl
  · rw [signOf_of_pos hv] at h ⊢
    simp only [Direction.toInt] at h ⊢
    exact signOf_of_pos (by omega)

/-- The unit `RampNext` leaves keeps the unit's invariant. -/
theorem AxisUnit.Inv.advance {n k : Nat} {u : AxisUnit} (h : u.Inv n) (hne : u.position ≠ u.target) (hk : k < n) :
    AxisUnit.Inv n { u.advance with accIndex := k } := by
  obtain ⟨-, hdisp, -⟩ := advance_of_points hne (h.direction_points hne)
  refine ⟨hk, h.accIndexFloor_lt, h.pulse_scheduled, fun hne2 => ?_⟩
  have hd := h.direction_points hne
  have e : AxisUnit.displacement { u.advance with accIndex := k } = u.advance.displacement := rfl
  have e2 : ({ u.advance with accIndex := k } : AxisUnit).direction = u.direction := rfl
  rw [e, e2, hdisp, hd]
  refine (signOf_sub_signOf ?_).symm
  rw [← hd, ← hdisp]
  have := toInt_ne_of_ne (v := u.advance.position) (w := u.advance.target) hne2
  simp only [AxisUnit.displacement]
  omega

/-! ## The events of a pulse -/

theorem schedRise_cases (a : Axis) (now : Time) (s : State) :
    (now.toNat + s.signalLength.toNat < 2 ^ 64 ∧ schedRise a now s =
      .ok ((s.setAxis a { s.axis a with
              pulseHigh := true, nextEventTime := BitVec.ofNat 64 (now.toNat + s.signalLength.toNat) }).emit (.stepRise a))) ∨
    (2 ^ 64 ≤ now.toNat + s.signalLength.toNat ∧ schedRise a now s = .error (.raised .timeOverflow (some a))) := by
  unfold schedRise
  rcases schedule_cases a (now.toNat + s.signalLength.toNat) (s.setPulse a true) with ⟨h, e⟩ | ⟨h, e⟩
  · refine .inl ⟨h, ?_⟩
    rw [e]
    simp [State.setPulse]
  · exact .inr ⟨h, by rw [e]; rfl⟩

/-- The end of a pulse: the fall is reported and the ramp is asked for the next delay. -/
theorem schedFall_eq_ok {a : Axis} {now : Time} {s t : State} (h : schedFall a now s = .ok t) :
    ∃ r u, rampNext a ((s.setPulse a false).emit (.stepFall a)) = .ok (r, u) ∧
      ((∃ d, r = some d ∧ now.toNat + lowInterval d s.signalLength < 2 ^ 64 ∧
          t = u.setAxis a { u.axis a with nextEventTime := BitVec.ofNat 64 (now.toNat + lowInterval d s.signalLength) }) ∨
       (r = none ∧ t = u.setIdle a)) := by
  unfold schedFall at h
  obtain ⟨⟨r, u⟩, hr, h⟩ := bind_eq_ok.mp h
  refine ⟨r, u, hr, ?_⟩
  cases r with
  | some d =>
    rcases schedule_cases a (now.toNat + lowInterval d s.signalLength) u with ⟨hlt, e⟩ | ⟨_, e⟩
    · simp only [e] at h
      cases h
      exact .inl ⟨d, rfl, hlt, rfl⟩
    · simp only [e] at h; cases h
  | none => cases h; exact .inr ⟨rfl, rfl⟩

/-- Priming: the ramp's first delay, from `now`. -/
theorem prime_eq_ok {a : Axis} {now : Time} {s t : State} (h : prime a now s = .ok t) :
    ∃ r u, rampNext a s = .ok (r, u) ∧
      ((∃ d, r = some d ∧ now.toNat + d.toNat < 2 ^ 64 ∧
          t = u.setAxis a { u.axis a with nextEventTime := BitVec.ofNat 64 (max (now.toNat + d.toNat) 1) }) ∨
       (r = none ∧ t = u)) := by
  unfold prime at h
  obtain ⟨⟨r, u⟩, hr, h⟩ := bind_eq_ok.mp h
  refine ⟨r, u, hr, ?_⟩
  cases r with
  | some d =>
    rcases schedule_cases a (max (now.toNat + d.toNat) 1) u with ⟨hlt, e⟩ | ⟨_, e⟩
    · simp only [e] at h
      cases h
      exact .inl ⟨d, rfl, by omega, rfl⟩
    · simp only [e] at h; cases h
  | none => cases h; exact .inr ⟨rfl, rfl⟩

/-! ## AxisPoll -/

/-- The five things `AxisPoll` can do (43_axis.md R152, 42_pulse_scheduler.md R132). -/
theorem axisPoll_cases {a : Axis} {now : Time} {s t : State} (h : axisPoll a now s = .ok t) :
    (s.onTarget a = true ∧ t = s) ∨
    (s.onTarget a = false ∧ (s.axis a).nextEventTime = 0#64 ∧ prime a now s = .ok t) ∨
    (s.onTarget a = false ∧ (s.axis a).nextEventTime ≠ 0#64 ∧ now.toNat < (s.axis a).nextEventTime.toNat ∧ t = s) ∨
    (s.onTarget a = false ∧ (s.axis a).nextEventTime ≠ 0#64 ∧ (s.axis a).nextEventTime.toNat ≤ now.toNat ∧
      (s.axis a).pulseHigh = true ∧ schedFall a now s = .ok t) ∨
    (s.onTarget a = false ∧ (s.axis a).nextEventTime ≠ 0#64 ∧ (s.axis a).nextEventTime.toNat ≤ now.toNat ∧
      (s.axis a).pulseHigh = false ∧ schedRise a now s = .ok t) := by
  unfold axisPoll at h
  split at h
  · rename_i ht
    cases h
    exact .inl ⟨ht, rfl⟩
  rename_i ht
  have ht : s.onTarget a = false := by simpa using ht
  split at h
  · rename_i hz
    exact .inr (.inl ⟨ht, hz, h⟩)
  rename_i hz
  split at h
  · rename_i hn
    cases h
    exact .inr (.inr (.inl ⟨ht, hz, hn, rfl⟩))
  rename_i hn
  split at h
  · rename_i hp
    exact .inr (.inr (.inr (.inl ⟨ht, hz, by omega, hp, h⟩)))
  · rename_i hp
    exact .inr (.inr (.inr (.inr ⟨ht, hz, by omega, by simpa using hp, h⟩)))

/-- `AxisPoll` writes the polled axis's unit and appends at most one edge. -/
theorem axisPoll_frame {a : Axis} {now : Time} {s t : State} (h : axisPoll a now s = .ok t) :
    ∃ u es, t = { s.setAxis a u with effects := s.effects ++ es } ∧
      (es = [] ∨ es = [.stepRise a] ∨ es = [.stepFall a]) := by
  have hrn : ∀ {s' : State} {r v}, rampNext a s' = .ok (r, v) → ∃ u, v = s'.setAxis a u := by
    intro s' r v hv
    rcases rampNext_cases hv with ⟨_, _, rfl⟩ | ⟨_, d, k, _, rfl, _⟩
    · exact ⟨_, (State.setAxis_axis _ _).symm⟩
    · exact ⟨_, rfl⟩
  rcases axisPoll_cases h with ⟨_, rfl⟩ | ⟨_, _, h⟩ | ⟨_, _, _, rfl⟩ | ⟨_, _, _, _, h⟩ | ⟨_, _, _, _, h⟩
  · exact ⟨t.axis a, [], by simp, .inl rfl⟩
  · obtain ⟨r, v, hr, h⟩ := prime_eq_ok h
    obtain ⟨u, rfl⟩ := hrn hr
    rcases h with ⟨d, _, _, rfl⟩ | ⟨_, rfl⟩
    · exact ⟨_, [], by simp; rfl, .inl rfl⟩
    · exact ⟨u, [], by simp; rfl, .inl rfl⟩
  · exact ⟨t.axis a, [], by simp, .inl rfl⟩
  · obtain ⟨r, v, hr, h⟩ := schedFall_eq_ok h
    obtain ⟨u, rfl⟩ := hrn hr
    rcases h with ⟨d, _, _, rfl⟩ | ⟨_, rfl⟩
    · exact ⟨_, [.stepFall a], by simp [State.setAxis, State.emit, State.setPulse]; rfl, .inr (.inr rfl)⟩
    · exact ⟨_, [.stepFall a], by simp [State.setAxis, State.emit, State.setPulse, State.setIdle]; rfl, .inr (.inr rfl)⟩
  · rcases schedRise_cases a now s with ⟨_, e⟩ | ⟨_, e⟩
    · rw [e] at h
      cases h
      exact ⟨_, [.stepRise a], rfl, .inr (.inl rfl)⟩
    · rw [e] at h; cases h

/-! ## AxisSetTarget -/

theorem axisSetTarget_of_guard {a : Axis} {target : Word} {speed : Nat} {s : State} (h : target = (s.axis a).target) :
    axisSetTarget a target speed s = .ok s := by unfold axisSetTarget; rw [if_pos h]

theorem axisSetTarget_of_zero {a : Axis} {target : Word} {s : State} (h : target ≠ (s.axis a).target) :
    axisSetTarget a target 0 s = .error (.raised .zeroAxisSpeed (some a)) := by
  unfold axisSetTarget; rw [if_neg h, if_pos rfl]

/-- The unit a new target leaves (43_axis.md R150). -/
def newTargetUnit (u : AxisUnit) (target : Word) (speed : Nat) : AxisUnit :=
  { target := target, position := u.position, direction := signOf (target.toInt - u.position.toInt),
    accIndex := 0, accIndexFloor := 0, cruiseDelay := cruiseDelayOf speed, nextEventTime := 0#64, pulseHigh := false,
    dirLevel := if target.toInt - u.position.toInt = 0 then u.dirLevel else decide (0 < target.toInt - u.position.toInt) }

/-- The effects a new target emits (43_axis.md R150). -/
def newTargetEffects (a : Axis) (u : AxisUnit) (target : Word) : List Effect :=
  (if u.pulseHigh then [.stepFall a] else []) ++
  (if target.toInt - u.position.toInt = 0 then [] else [.setDir a (decide (0 < target.toInt - u.position.toInt))])

/-- `dropPulse` as one update. -/
theorem dropPulse_eq (a : Axis) (s : State) :
    dropPulse a s = { s.setAxis a { s.axis a with pulseHigh := false, nextEventTime := 0#64 } with
      effects := s.effects ++ if (s.axis a).pulseHigh then [.stepFall a] else [] } := by
  unfold dropPulse
  cases hp : (s.axis a).pulseHigh with
  | true => simp only [if_true]; cases a <;> rfl
  | false =>
    simp only [Bool.false_eq_true, if_false, List.append_nil, State.setIdle]
    rw [show ({ s.axis a with pulseHigh := false, nextEventTime := 0#64 } : AxisUnit) =
      { s.axis a with nextEventTime := 0#64 } by rw [← hp]]
    rfl

/-- `setDirection` as one update. -/
theorem setDirection_eq (a : Axis) (d : Int) (s : State) :
    setDirection a d s = { s.setAxis a { s.axis a with dirLevel := if d = 0 then (s.axis a).dirLevel else decide (0 < d) } with
      effects := s.effects ++ if d = 0 then [] else [.setDir a (decide (0 < d))] } := by
  unfold setDirection
  by_cases hd : d = 0
  · simp only [if_pos hd, List.append_nil]
    cases a <;> rfl
  · simp only [if_neg hd]
    rfl

/-- `AxisSetTarget` past its guard with a speed: the unit and effects above, and nothing else. -/
theorem axisSetTarget_of_pos {a : Axis} {target : Word} {speed : Nat} {s : State} (h : target ≠ (s.axis a).target)
    (hs : speed ≠ 0) :
    axisSetTarget a target speed s =
      .ok { s.setAxis a (newTargetUnit (s.axis a) target speed) with
            effects := s.effects ++ newTargetEffects a (s.axis a) target } := by
  unfold axisSetTarget
  rw [if_neg h, if_neg hs]
  simp only [setDirection_eq, dropPulse_eq, newTargetEffects, rampSetTarget]
  cases a <;> simp only [List.append_assoc] <;> rfl

end Sys2Proof.Machine
end

