-- ==== Sys2Proof/Laws/Commands.lean ====
section
/-! SUPPORT. Laws/Commands.lean: everything the coordinated move and the commands can do. -/

namespace Sys2Proof.Machine

open Sys2Proof

/-! ## Target resolution -/

theorem resolveTarget_of_none {g : Gathered} {a : Axis} {s : State} (h : g.axis.get a = none) :
    resolveTarget g a s = .ok (s.axis a).position.toInt := by simp [resolveTarget, h]

theorem resolveTarget_of_some {g : Gathered} {a : Axis} {s : State} {arg : Arg} (h : g.axis.get a = some arg) :
    resolveTarget g a s =
      if inI32 (namedTarget arg a s) then .ok (namedTarget arg a s) else .error (.raised .arithOverflow (some a)) := by
  simp only [resolveTarget, h]

/-- A resolved target lies in i32. -/
theorem resolveTarget_inI32 {g : Gathered} {a : Axis} {s : State} {t : Int} (h : resolveTarget g a s = .ok t) :
    inI32 t = true := by
  cases hg : g.axis.get a with
  | none => rw [resolveTarget_of_none hg] at h; cases h; exact inI32_toInt _
  | some arg =>
    rw [resolveTarget_of_some hg] at h
    split at h
    · cases h; assumption
    · cases h

theorem resolveTarget_error {g : Gathered} {a : Axis} {s : State} {e : Stop} (h : resolveTarget g a s = .error e) :
    e = .raised .arithOverflow (some a) := by
  cases hg : g.axis.get a with
  | none => rw [resolveTarget_of_none hg] at h; cases h
  | some arg =>
    rw [resolveTarget_of_some hg] at h
    split at h <;> cases h
    rfl

theorem resolveTargets_eq_ok {g : Gathered} {s : State} {tgt : PerAxis Int} :
    resolveTargets g s = .ok tgt ↔ ∀ a, resolveTarget g a s = .ok (tgt.get a) := by
  constructor
  · intro h
    obtain ⟨x, hx, h⟩ := bind_eq_ok.mp h
    obtain ⟨y, hy, h⟩ := bind_eq_ok.mp h
    obtain ⟨z, hz, h⟩ := bind_eq_ok.mp h
    cases h
    intro a
    cases a
    · exact hx
    · exact hy
    · exact hz
  · intro h
    have hx := h .x; have hy := h .y; have hz := h .z
    unfold resolveTargets
    rw [hx, hy, hz]
    rfl

theorem resolveTargets_error {g : Gathered} {s : State} {e : Stop} (h : resolveTargets g s = .error e) :
    ∃ a, e = .raised .arithOverflow (some a) := by
  rcases bind_eq_error.mp h with h | ⟨x, _, h⟩
  · exact ⟨_, resolveTarget_error h⟩
  rcases bind_eq_error.mp h with h | ⟨y, _, h⟩
  · exact ⟨_, resolveTarget_error h⟩
  rcases bind_eq_error.mp h with h | ⟨z, _, h⟩
  · exact ⟨_, resolveTarget_error h⟩
  · cases h

/-! ## The commit -/

/-- The unit of axis `a` after a move is committed (45_commands.md R209). -/
def movedUnit (speed : Word) (dist : Nat) (tgt : PerAxis Int) (a : Axis) (u : AxisUnit) : AxisUnit :=
  if tgt.get a - u.position.toInt = 0 ∨ BitVec.ofInt 32 (tgt.get a) = u.target then u
  else newTargetUnit u (BitVec.ofInt 32 (tgt.get a)) (allocatedSpeed speed (tgt.get a - u.position.toInt) dist)

/-- The effects of axis `a` when a move is committed (45_commands.md R209). -/
def movedEffects (tgt : PerAxis Int) (a : Axis) (u : AxisUnit) : List Effect :=
  if tgt.get a - u.position.toInt = 0 ∨ BitVec.ofInt 32 (tgt.get a) = u.target then []
  else newTargetEffects a u (BitVec.ofInt 32 (tgt.get a))

theorem commitAxis_eq {speed : Word} {dist : Nat} {tgt : PerAxis Int} {a : Axis} {s : State}
    (h : displacement tgt s a ≠ 0 → allocatedSpeed speed (displacement tgt s a) dist ≠ 0) :
    commitAxis speed dist tgt a s =
      .ok { s.setAxis a (movedUnit speed dist tgt a (s.axis a)) with
            effects := s.effects ++ movedEffects tgt a (s.axis a) } := by
  unfold commitAxis movedUnit movedEffects
  by_cases hd : displacement tgt s a = 0
  · have hd' : tgt.get a - (s.axis a).position.toInt = 0 := hd
    simp [hd, hd']
  · have hd' : ¬ tgt.get a - (s.axis a).position.toInt = 0 := hd
    rw [if_pos hd]
    by_cases ht : BitVec.ofInt 32 (tgt.get a) = (s.axis a).target
    · rw [axisSetTarget_of_guard ht]
      simp [ht]
    · rw [axisSetTarget_of_pos ht (h hd)]
      simp only [hd', ht, or_self, if_false]
      rfl

/-- The state a started move leaves (45_commands.md R206, R209). -/
def movedState (tgt : PerAxis Int) (dist : Nat) (speed newFeed : Word) (s : State) : State :=
  { s with
    feedRate := newFeed
    axes := ⟨movedUnit speed dist tgt .x (s.axis .x), movedUnit speed dist tgt .y (s.axis .y),
             movedUnit speed dist tgt .z (s.axis .z)⟩
    effects := s.effects ++ movedEffects tgt .x (s.axis .x) ++ movedEffects tgt .y (s.axis .y) ++
               movedEffects tgt .z (s.axis .z) }

theorem checkSpeed_eq_ok {speed : Word} {dist : Nat} {tgt : PerAxis Int} {s : State} {a : Axis} :
    checkSpeed speed dist tgt s a = .ok () ↔
      (displacement tgt s a ≠ 0 → allocatedSpeed speed (displacement tgt s a) dist ≠ 0) := by
  unfold checkSpeed
  by_cases h : displacement tgt s a ≠ 0 ∧ allocatedSpeed speed (displacement tgt s a) dist = 0
  · rw [if_pos h]
    exact ⟨fun hh => (by cases hh), fun hh => absurd h.2 (hh h.1)⟩
  · rw [if_neg h]
    exact ⟨fun _ hd hz => h ⟨hd, hz⟩, fun _ => rfl⟩

theorem checkSpeed_error {speed : Word} {dist : Nat} {tgt : PerAxis Int} {s : State} {a : Axis} {e : Stop}
    (h : checkSpeed speed dist tgt s a = .error e) : e = .raised .zeroAxisSpeed (some a) := by
  unfold checkSpeed at h
  split at h <;> cases h
  rfl

/-- A move starts where every moving axis has a speed. -/
theorem startMove_eq {tgt : PerAxis Int} {dist : Nat} {speed newFeed : Word} {s : State}
    (h : ∀ a, displacement tgt s a ≠ 0 → allocatedSpeed speed (displacement tgt s a) dist ≠ 0) :
    startMove tgt dist speed newFeed s = .ok (movedState tgt dist speed newFeed s) := by
  unfold startMove
  rw [checkSpeed_eq_ok.mpr (h .x), checkSpeed_eq_ok.mpr (h .y), checkSpeed_eq_ok.mpr (h .z)]
  simp only [ok_bind]
  rw [commitAxis_eq (s := s.setFeedRate newFeed) (a := .x) (h .x), ok_bind]
  rw [commitAxis_eq (a := .y) ?hy, ok_bind]
  rw [commitAxis_eq (a := .z) ?hz]
  · rfl
  · exact h .z
  · exact h .y

theorem startMove_cases (tgt : PerAxis Int) (dist : Nat) (speed newFeed : Word) (s : State) :
    ((∀ a, displacement tgt s a ≠ 0 → allocatedSpeed speed (displacement tgt s a) dist ≠ 0) ∧
      startMove tgt dist speed newFeed s = .ok (movedState tgt dist speed newFeed s)) ∨
    (∃ a, displacement tgt s a ≠ 0 ∧ allocatedSpeed speed (displacement tgt s a) dist = 0 ∧
      startMove tgt dist speed newFeed s = .error (.raised .zeroAxisSpeed (some a))) := by
  by_cases h : ∀ a, displacement tgt s a ≠ 0 → allocatedSpeed speed (displacement tgt s a) dist ≠ 0
  · exact .inl ⟨h, startMove_eq h⟩
  · refine .inr ?_
    have hbad : ∀ {a}, ¬ (displacement tgt s a ≠ 0 → allocatedSpeed speed (displacement tgt s a) dist ≠ 0) →
        (displacement tgt s a ≠ 0 ∧ allocatedSpeed speed (displacement tgt s a) dist = 0) ∧
        checkSpeed speed dist tgt s a = .error (.raised .zeroAxisSpeed (some a)) := by
      intro a ha
      have ha : displacement tgt s a ≠ 0 ∧ allocatedSpeed speed (displacement tgt s a) dist = 0 := by
        by_contra hc
        exact ha fun hd hz => hc ⟨hd, hz⟩
      exact ⟨ha, by unfold checkSpeed; rw [if_pos ha]⟩
    by_cases hx : displacement tgt s .x ≠ 0 → allocatedSpeed speed (displacement tgt s .x) dist ≠ 0
    · by_cases hy : displacement tgt s .y ≠ 0 → allocatedSpeed speed (displacement tgt s .y) dist ≠ 0
      · have hz : ¬ (displacement tgt s .z ≠ 0 → allocatedSpeed speed (displacement tgt s .z) dist ≠ 0) :=
          fun hz => h fun a => by
            cases a
            · exact hx
            · exact hy
            · exact hz
        obtain ⟨hb, e⟩ := hbad hz
        exact ⟨.z, hb.1, hb.2, by
          unfold startMove
          rw [checkSpeed_eq_ok.mpr hx, checkSpeed_eq_ok.mpr hy, e]; rfl⟩
      · obtain ⟨hb, e⟩ := hbad hy
        exact ⟨.y, hb.1, hb.2, by unfold startMove; rw [checkSpeed_eq_ok.mpr hx, e]; rfl⟩
    · obtain ⟨hb, e⟩ := hbad hx
      exact ⟨.x, hb.1, hb.2, by unfold startMove; rw [e]; rfl⟩

/-- What the coordinated move can do: start, be dropped, or raise a fault (45_commands.md R206). -/
theorem moveCommand_eq_ok {g : Gathered} {speed newFeed : Word} {s t : State} (h : moveCommand g speed newFeed s = .ok t) :
    ∃ tgt, resolveTargets g s = .ok tgt ∧
      (((speed = 0#32 ∨ moveDistance tgt s = 0) ∧ t = s.setFeedRate newFeed) ∨
       (speed ≠ 0#32 ∧ moveDistance tgt s ≠ 0 ∧
        (∀ a, displacement tgt s a ≠ 0 → allocatedSpeed speed (displacement tgt s a) (moveDistance tgt s) ≠ 0) ∧
        t = movedState tgt (moveDistance tgt s) speed newFeed s)) := by
  obtain ⟨tgt, hr, h⟩ := bind_eq_ok.mp h
  refine ⟨tgt, hr, ?_⟩
  by_cases hd : speed = 0#32 ∨ moveDistance tgt s = 0
  · simp only [if_pos hd] at h
    cases h
    exact .inl ⟨hd, rfl⟩
  · simp only [if_neg hd] at h
    rw [not_or] at hd
    rcases startMove_cases tgt (moveDistance tgt s) speed newFeed s with ⟨hs, e⟩ | ⟨_, _, _, e⟩
    · rw [e] at h
      cases h
      exact .inr ⟨hd.1, hd.2, hs, rfl⟩
    · rw [e] at h; cases h

theorem moveCommand_error {g : Gathered} {speed newFeed : Word} {s : State} {e : Stop}
    (h : moveCommand g speed newFeed s = .error e) :
    ∃ a, e = .raised .arithOverflow (some a) ∨ e = .raised .zeroAxisSpeed (some a) := by
  rcases bind_eq_error.mp h with h | ⟨tgt, _, h⟩
  · obtain ⟨a, rfl⟩ := resolveTargets_error h
    exact ⟨a, .inl rfl⟩
  · by_cases hd : speed = 0#32 ∨ moveDistance tgt s = 0
    · simp only [if_pos hd] at h; cases h
    · simp only [if_neg hd] at h
      rcases startMove_cases tgt (moveDistance tgt s) speed newFeed s with ⟨_, e'⟩ | ⟨a, _, _, e'⟩
      · rw [e'] at h; cases h
      · rw [e'] at h
        cases h
        exact ⟨a, .inr rfl⟩

/-! ## G92 -/

theorem offsetAxis_eq_ok {g : Gathered} {a : Axis} {s t : State} (h : offsetAxis g a s = .ok t) :
    (g.axis.get a = none ∧ t = s) ∨
    (∃ arg, g.axis.get a = some arg ∧ inI32 (argToSteps arg (s.resolution.get a)) = true ∧
      t = s.setHomeOffset a (BitVec.ofInt 32 (argToSteps arg (s.resolution.get a)))) := by
  unfold offsetAxis at h
  cases hg : g.axis.get a with
  | none => rw [hg] at h; cases h; exact .inl ⟨rfl, rfl⟩
  | some arg =>
    simp only [hg] at h
    split at h
    · rename_i hr
      cases h
      exact .inr ⟨arg, rfl, hr, rfl⟩
    · cases h

theorem offsetAxis_error {g : Gathered} {a : Axis} {s : State} {e : Stop} (h : offsetAxis g a s = .error e) :
    e = .raised .arithOverflow (some a) := by
  unfold offsetAxis at h
  cases hg : g.axis.get a with
  | none => rw [hg] at h; cases h
  | some arg =>
    simp only [hg] at h
    split at h <;> cases h
    rfl

/-! ## What any command can do -/

/-- A state that differs from `s` only in what a command may write: the axes, the mode, the offsets, the feed rate and the
effects, which are appended. -/
def CommandWrites (s t : State) : Prop :=
  ∃ es, t = { s with axes := t.axes, mode := t.mode, homeOffset := t.homeOffset, feedRate := t.feedRate,
                     effects := s.effects ++ es }

theorem moveCommand_writes {g : Gathered} {speed newFeed : Word} {s t : State}
    (h : moveCommand g speed newFeed s = .ok t) : CommandWrites s t := by
  obtain ⟨tgt, _, ⟨_, rfl⟩ | ⟨_, _, _, rfl⟩⟩ := moveCommand_eq_ok h
  · exact ⟨[], by simp [State.setFeedRate]⟩
  · exact ⟨movedEffects tgt .x (s.axis .x) ++ movedEffects tgt .y (s.axis .y) ++ movedEffects tgt .z (s.axis .z), by
      simp [movedState, List.append_assoc]⟩

/-- Every command writes only what `CommandWrites` lists. -/
theorem commandEffect_writes {c : Command} {s t : State} (h : commandEffect c s = .ok t) : CommandWrites s t := by
  cases c with
  | g0 args =>
    simp only [commandEffect, cmdG0] at h
    split at h <;> exact moveCommand_writes h
  | g1 args => exact moveCommand_writes h
  | g20 => cases h
  | g21 => cases h; exact ⟨[], by simp⟩
  | g90 => cases h; exact ⟨[], by simp [State.setMode]⟩
  | g91 => cases h; exact ⟨[], by simp [State.setMode]⟩
  | g92 args =>
    obtain ⟨sx, hx, hyz⟩ := bind_eq_ok.mp h
    obtain ⟨sy, hy, hz⟩ := bind_eq_ok.mp hyz
    refine ⟨[], ?_⟩
    rcases offsetAxis_eq_ok hx with ⟨_, rfl⟩ | ⟨_, _, _, rfl⟩ <;>
    rcases offsetAxis_eq_ok hy with ⟨_, rfl⟩ | ⟨_, _, _, rfl⟩ <;>
    rcases offsetAxis_eq_ok hz with ⟨_, rfl⟩ | ⟨_, _, _, rfl⟩ <;> simp [State.setHomeOffset]
  | m30 => cases h; exact ⟨[], by simp [State.setFeedRate]⟩
  | mOther major minor => cases h; exact ⟨[], by simp⟩
  | gUnrecognized major minor => cases h; exact ⟨_, rfl⟩
  | nUnrecognized major minor => cases h; exact ⟨_, rfl⟩
  | unknownUnrecognized major minor => cases h; exact ⟨_, rfl⟩

/-- A command that ends early raises a fault whose record is legal (60_exceptions.md R240). -/
theorem commandEffect_error {c : Command} {s : State} {e : Stop} (h : commandEffect c s = .error e) :
    ∃ cause axis, e = .raised cause axis ∧ faultRecordLegal true cause axis = true := by
  have hmove : ∀ {g speed newFeed}, moveCommand g speed newFeed s = .error e →
      ∃ cause axis, e = .raised cause axis ∧ faultRecordLegal true cause axis = true := by
    intro g speed newFeed h
    obtain ⟨a, rfl | rfl⟩ := moveCommand_error h
    · exact ⟨_, _, rfl, rfl⟩
    · exact ⟨_, _, rfl, rfl⟩
  cases c with
  | g0 args =>
    simp only [commandEffect, cmdG0] at h
    split at h <;> exact hmove h
  | g1 args => exact hmove h
  | g20 => cases h; exact ⟨_, _, rfl, rfl⟩
  | g92 args =>
    rcases bind_eq_error.mp h with h | ⟨_, _, h⟩
    · exact ⟨_, _, offsetAxis_error h, rfl⟩
    rcases bind_eq_error.mp h with h | ⟨_, _, h⟩
    · exact ⟨_, _, offsetAxis_error h, rfl⟩
    · exact ⟨_, _, offsetAxis_error h, rfl⟩
  | g21 => cases h
  | g90 => cases h
  | g91 => cases h
  | m30 => cases h
  | mOther major minor => cases h
  | gUnrecognized major minor => cases h
  | nUnrecognized major minor => cases h
  | unknownUnrecognized major minor => cases h

/-- The command part of `CommandWrites`, field by field. -/
theorem CommandWrites.fields {s t : State} (h : CommandWrites s t) :
    t.table = s.table ∧ t.signalLength = s.signalLength ∧ t.resolution = s.resolution ∧
    t.defaultFeedRate = s.defaultFeedRate ∧ t.maxFeedRate = s.maxFeedRate ∧ t.queue = s.queue ∧ t.rrSlot = s.rrSlot ∧
    t.halted = s.halted ∧ t.faultCause = s.faultCause ∧ t.faultAxis = s.faultAxis ∧ t.rsp = s.rsp ∧ t.inbox = s.inbox := by
  obtain ⟨es, h⟩ := h
  rw [h]
  exact ⟨rfl, rfl, rfl, rfl, rfl, rfl, rfl, rfl, rfl, rfl, rfl, rfl⟩

theorem CommandWrites.refl (s : State) : CommandWrites s s := ⟨[], by simp⟩

theorem decodeHead_writes {s t : State} (h : decodeHead s = .ok t) : CommandWrites s t := by
  unfold decodeHead at h
  split at h
  · exact commandEffect_writes h
  · cases h; exact .refl _

theorem decodeHead_error {s : State} {e : Stop} (h : decodeHead s = .error e) :
    ∃ cause axis, e = .raised cause axis ∧ faultRecordLegal true cause axis = true := by
  unfold decodeHead at h
  split at h
  · exact commandEffect_error h
  · cases h

end Sys2Proof.Machine
end

