-- ==== Sys2Proof/Laws/Encoding.lean ====
section
/-! SUPPORT. Laws/Encoding.lean: each field read back from a word built of its fields (30_encoding.md R71, R80 to R84). -/

set_option linter.unusedSimpArgs false

namespace Sys2Proof

/-! ## Codes -/

@[simp] theorem axisOfCode_axisCode (a : Option Axis) : axisOfCode (axisCode a) = a := by
  cases a with
  | none => rfl
  | some a => cases a <;> rfl

@[simp] theorem tagOfCode_tagCode (t : ArgTag) : tagOfCode (tagCode t) = t := by cases t <;> rfl

/-! ## The request word -/

section Request
variable (op : BitVec 4) (axis : BitVec 2) (reg : BitVec 8) (index : BitVec 16) (now : Time)

@[simp] theorem reqOp_reqWord : reqOp (reqWord op axis reg index now) = op := by
  simp (disch := omega) only [reqOp, reqWord, BitVec.extractLsb'_append_eq_of_le, BitVec.extractLsb'_append_eq_of_add_le,
    BitVec.extractLsb'_eq_self, Nat.reduceSub, Nat.sub_self]

@[simp] theorem reqAxis_reqWord : reqAxis (reqWord op axis reg index now) = axis := by
  simp (disch := omega) only [reqAxis, reqWord, BitVec.extractLsb'_append_eq_of_le, BitVec.extractLsb'_append_eq_of_add_le,
    BitVec.extractLsb'_eq_self, Nat.reduceSub, Nat.sub_self]

@[simp] theorem reqReg_reqWord : reqReg (reqWord op axis reg index now) = reg := by
  simp (disch := omega) only [reqReg, reqWord, BitVec.extractLsb'_append_eq_of_le, BitVec.extractLsb'_append_eq_of_add_le,
    BitVec.extractLsb'_eq_self, Nat.reduceSub, Nat.sub_self]

@[simp] theorem reqIndex_reqWord : reqIndex (reqWord op axis reg index now) = index := by
  simp (disch := omega) only [reqIndex, reqWord, BitVec.extractLsb'_append_eq_of_le, BitVec.extractLsb'_append_eq_of_add_le,
    BitVec.extractLsb'_eq_self, Nat.reduceSub, Nat.sub_self]

@[simp] theorem reqNow_reqWord : reqNow (reqWord op axis reg index now) = now := by
  simp (disch := omega) only [reqNow, reqWord, BitVec.extractLsb'_append_eq_of_le, BitVec.extractLsb'_append_eq_of_add_le,
    BitVec.extractLsb'_eq_self, Nat.reduceSub, Nat.sub_self]

end Request

/-! ## The command bundle -/

section Command
variable (mnem : BitVec 2) (major minor : BitVec 16)

@[simp] theorem headerMnem_headerWord : headerMnem (headerWord mnem major minor) = mnem := by
  simp (disch := omega) only [headerMnem, headerWord, BitVec.extractLsb'_append_eq_of_le, BitVec.extractLsb'_append_eq_of_add_le,
    BitVec.extractLsb'_eq_self, Nat.reduceSub, Nat.sub_self]

@[simp] theorem headerMajor_headerWord : headerMajor (headerWord mnem major minor) = major := by
  simp (disch := omega) only [headerMajor, headerWord, BitVec.extractLsb'_append_eq_of_le, BitVec.extractLsb'_append_eq_of_add_le,
    BitVec.extractLsb'_eq_self, Nat.reduceSub, Nat.sub_self]

@[simp] theorem headerMinor_headerWord : headerMinor (headerWord mnem major minor) = minor := by
  simp (disch := omega) only [headerMinor, headerWord, BitVec.extractLsb'_append_eq_of_le, BitVec.extractLsb'_append_eq_of_add_le,
    BitVec.extractLsb'_eq_self, Nat.reduceSub, Nat.sub_self]

variable (h : Header) (args : Slots)

@[simp] theorem cmdHeader_bundleWord : cmdHeader (bundleWord h args) = h := by
  simp (disch := omega) only [cmdHeader, bundleWord, BitVec.extractLsb'_append_eq_of_le, BitVec.extractLsb'_append_eq_of_add_le,
    BitVec.extractLsb'_eq_self, Nat.reduceSub, Nat.sub_self]

@[simp] theorem cmdSlot0_bundleWord : cmdSlot0 (bundleWord h args) = slotWord args.a0 := by
  simp (disch := omega) only [cmdSlot0, bundleWord, BitVec.extractLsb'_append_eq_of_le, BitVec.extractLsb'_append_eq_of_add_le,
    BitVec.extractLsb'_eq_self, Nat.reduceSub, Nat.sub_self]

@[simp] theorem cmdSlot1_bundleWord : cmdSlot1 (bundleWord h args) = slotWord args.a1 := by
  simp (disch := omega) only [cmdSlot1, bundleWord, BitVec.extractLsb'_append_eq_of_le, BitVec.extractLsb'_append_eq_of_add_le,
    BitVec.extractLsb'_eq_self, Nat.reduceSub, Nat.sub_self]

@[simp] theorem cmdSlot2_bundleWord : cmdSlot2 (bundleWord h args) = slotWord args.a2 := by
  simp (disch := omega) only [cmdSlot2, bundleWord, BitVec.extractLsb'_append_eq_of_le, BitVec.extractLsb'_append_eq_of_add_le,
    BitVec.extractLsb'_eq_self, Nat.reduceSub, Nat.sub_self]

end Command

/-- A slot word gives its argument back. -/
@[simp] theorem decodeSlot_slotWord (a : Option Arg) : decodeSlot (slotWord a) = a := by
  cases a with
  | none => rfl
  | some a =>
    obtain ⟨tag, int, frac, float⟩ := a
    unfold decodeSlot
    simp (disch := omega) only [slotWord, BitVec.extractLsb'_append_eq_of_le, BitVec.extractLsb'_append_eq_of_add_le,
      BitVec.extractLsb'_eq_self, Nat.reduceSub, Nat.sub_self, if_true, tagOfCode_tagCode]

@[simp] theorem decodeSlots_bundleWord (h : Header) (args : Slots) : decodeSlots (bundleWord h args) = args := by
  simp [decodeSlots]

/-- The header bits that are not ignored are its three fields (30_encoding.md R81, R86). -/
theorem header_and_mask (h : Header) :
    h &&& 0x0000FFFFFFFF0003#64 = headerWord (headerMnem h) (headerMajor h) (headerMinor h) := by
  apply BitVec.eq_of_getLsbD_eq
  intro i hi
  simp only [headerWord, headerMnem, headerMajor, headerMinor, BitVec.getLsbD_append, BitVec.getLsbD_and,
    BitVec.getLsbD_extractLsb', BitVec.getLsbD_zero]
  interval_cases i <;> simp

/-! ## Bytes -/

@[simp] theorem length_leBytes (n w : Nat) : (leBytes n w).length = n := by
  induction n generalizing w with
  | zero => rfl
  | succ n ih => simp [leBytes, ih]

/-- The bytes of a number carry it, up to their count (20_memory.md R52). -/
theorem ofLeBytes_leBytes (n w : Nat) : ofLeBytes (leBytes n w) = w % 256 ^ n := by
  induction n generalizing w with
  | zero => simp [leBytes, ofLeBytes, Nat.mod_one]
  | succ n ih =>
    simp only [leBytes, ofLeBytes, ih, BitVec.toNat_ofNat]
    rw [show 256 ^ (n + 1) = 256 * 256 ^ n from Nat.pow_succ', Nat.mod_mul]

/-- A byte sequence is that of the number it carries (20_memory.md R52). -/
theorem leBytes_ofLeBytes (bs : List Byte) : leBytes bs.length (ofLeBytes bs) = bs := by
  induction bs with
  | nil => rfl
  | cons b bs ih =>
    have hb : BitVec.ofNat 8 (b.toNat + 256 * ofLeBytes bs) = b := by
      apply BitVec.eq_of_toNat_eq; have := b.isLt; simp only [BitVec.toNat_ofNat]; omega
    have hq : (b.toNat + 256 * ofLeBytes bs) / 256 = ofLeBytes bs := by have := b.isLt; omega
    simp only [List.length_cons, leBytes, ofLeBytes, hb, hq, ih]

/-- Byte k of a number's bytes is its k-th digit in base 256 (20_memory.md R52). -/
theorem getElem?_leBytes {n k : Nat} (w : Nat) (h : k < n) : (leBytes n w)[k]? = some (BitVec.ofNat 8 (w / 256 ^ k)) := by
  induction k generalizing n w with
  | zero => cases n with
    | zero => omega
    | succ n => simp [leBytes]
  | succ k ih => cases n with
    | zero => omega
    | succ n =>
      rw [leBytes, List.getElem?_cons_succ, ih (w / 256) (Nat.lt_of_succ_lt_succ h), Nat.div_div_eq_div_mul, ← Nat.pow_succ']

end Sys2Proof
end

