-- ==== Sys2Proof/Laws/Interface.lean ====
section
/-! SUPPORT. Laws/Interface.lean: everything the interface operations can do, in terms of what they call. -/

namespace Sys2Proof.Machine

open Sys2Proof

/-! ## The axis poll -/

/-- What can end an axis poll early: a time past the end, or an index outside the table. -/
theorem axisPoll_error {a : Axis} {now : Time} {s : State} {e : Stop} (h : axisPoll a now s = .error e) :
    e = .raised .timeOverflow (some a) ∨ (s.rampLen ≤ (s.axis a).accIndex ∧ e = .outside .tableIndexOutside) := by
  have hsched : ∀ {t : Nat} {u : State} {e : Stop}, schedule a t u = .error e → e = .raised .timeOverflow (some a) := by
    intro t u e he
    rcases schedule_cases a t u with ⟨_, h'⟩ | ⟨_, h'⟩ <;> rw [h'] at he <;> cases he
    rfl
  unfold axisPoll at h
  split at h
  · cases h
  split at h
  · rcases bind_eq_error.mp h with h | ⟨⟨r, u⟩, _, h⟩
    · exact .inr (rampNext_eq_error h)
    · cases r with
      | some d => exact .inl (hsched h)
      | none => cases h
  split at h
  · cases h
  split at h
  · rcases bind_eq_error.mp h with h | ⟨⟨r, u⟩, _, h⟩
    · have := rampNext_eq_error h
      exact .inr ⟨by simpa [State.setPulse, State.rampLen] using this.1, this.2⟩
    · cases r with
      | some d => exact .inl (hsched h)
      | none => cases h
  · rcases schedRise_cases a now s with ⟨_, h'⟩ | ⟨_, h'⟩ <;> rw [h'] at h <;> cases h
    exact .inl rfl

/-- What can end the body of STEP_MONITOR early. -/
theorem stepMonitorBody_error {axis : Option Axis} {now : Time} {s : State} {e : Stop}
    (h : stepMonitorBody axis now s = .error e) :
    ∃ a, axis = some a ∧ axisPoll a now s = .error e := by
  unfold stepMonitorBody at h
  cases axis with
  | none => cases h
  | some a =>
    simp only at h
    split at h
    · exact ⟨a, rfl, h⟩
    · cases h

/-- The body of STEP_MONITOR polls its axis, or does nothing. -/
theorem stepMonitorBody_cases {axis : Option Axis} {now : Time} {s t : State}
    (h : stepMonitorBody axis now s = .ok t) :
    t = s ∨ ∃ a, axis = some a ∧ s.executing = true ∧ axisPoll a now s = .ok t := by
  unfold stepMonitorBody at h
  cases axis with
  | none => cases h; exact .inl rfl
  | some a =>
    simp only at h
    split at h
    · exact .inr ⟨a, rfl, by assumption, h⟩
    · cases h; exact .inl rfl

/-! ## The queue -/

theorem executing_iff {s : State} : s.executing = true ↔ s.queue ≠ [] := by
  simp [State.executing, Nat.one_le_iff_ne_zero]

theorem intake_of_empty {s : State} (c : Bundle) (h : s.queue = []) : intake c s = decodeHead (s.push c) := by
  simp [intake, State.push, h]

theorem intake_of_head {s : State} (c : Bundle) (h : s.queue ≠ []) : intake c s = .ok (s.push c) := by
  have : s.queue.length ≠ 0 := by simpa using h
  simp [intake, State.push, this]

/-- A POLL that takes no offer. -/
theorem pollIntake_of_none {offer : Option Bundle} {s : State} (h : takesOffer offer s = false) :
    pollIntake offer s = .ok s := by
  cases offer with
  | none => rfl
  | some c =>
    have : ¬ s.queue.length < 2 := by simpa [takesOffer] using h
    simp [pollIntake, this]

/-- A POLL that takes its offer. -/
theorem pollIntake_of_some {c : Bundle} {s : State} (h : s.queue.length < 2) : pollIntake (some c) s = intake c s := by
  simp [pollIntake, h]

theorem retire_of_motion {s : State} (h : s.queue = [] ∨ s.allOnTarget = false) : retire s = .ok s := by
  unfold retire
  rw [if_neg]
  rcases h with h | h
  · simp [State.executing, h]
  · simp [h]

theorem retire_of_onTarget {s : State} (hq : s.queue ≠ []) (ht : s.allOnTarget = true) : retire s = decodeHead s.pop := by
  unfold retire
  rw [if_pos]
  simp [executing_iff.mpr hq, ht]

theorem decodeHead_of_nil {s : State} (h : s.queue = []) : decodeHead s = .ok s := by simp [decodeHead, h]

theorem decodeHead_of_cons {s : State} {c : Bundle} {rest : List Bundle} (h : s.queue = c :: rest) :
    decodeHead s = commandEffect (decodeCmd c) s := by simp [decodeHead, decodeCommand, h]

/-- An intake writes what a command writes, past the push. -/
theorem intake_writes {c : Bundle} {s t : State} (h : intake c s = .ok t) : CommandWrites (s.push c) t := by
  unfold intake at h
  simp only at h
  split at h
  · exact decodeHead_writes h
  · cases h; exact .refl _

theorem intake_error {c : Bundle} {s : State} {e : Stop} (h : intake c s = .error e) :
    ∃ cause axis, e = .raised cause axis ∧ faultRecordLegal true cause axis = true := by
  unfold intake at h
  simp only at h
  split at h
  · exact decodeHead_error h
  · cases h

/-- Retirement writes what a command writes, past the pop, if it happens. -/
theorem retire_cases {s t : State} (h : retire s = .ok t) :
    t = s ∨ (s.queue ≠ [] ∧ s.allOnTarget = true ∧ CommandWrites s.pop t) := by
  unfold retire at h
  split at h
  · rename_i hc
    rw [Bool.and_eq_true, executing_iff] at hc
    exact .inr ⟨hc.1, hc.2, decodeHead_writes h⟩
  · cases h; exact .inl rfl

theorem retire_error {s : State} {e : Stop} (h : retire s = .error e) :
    ∃ cause axis, e = .raised cause axis ∧ faultRecordLegal true cause axis = true := by
  unfold retire at h
  split at h
  · exact decodeHead_error h
  · cases h

/-- POLL is its intake, then its retirement, then its answer. -/
theorem pollBody_eq_ok {offer : Option Bundle} {s t : State} (h : pollBody offer s = .ok t) :
    ∃ u v, pollIntake offer s = .ok u ∧ retire u = .ok v ∧ t = v.respond .done (takesOffer offer s) 0#32 := by
  obtain ⟨u, hu, h⟩ := bind_eq_ok.mp h
  obtain ⟨v, hv, h⟩ := bind_eq_ok.mp h
  cases h
  exact ⟨u, v, hu, hv, rfl⟩

theorem pollIntake_cases {offer : Option Bundle} {s t : State} (h : pollIntake offer s = .ok t) :
    t = s ∨ ∃ c, offer = some c ∧ s.queue.length < 2 ∧ intake c s = .ok t := by
  cases offer with
  | none => cases h; exact .inl rfl
  | some c =>
    simp only [pollIntake] at h
    split at h
    · exact .inr ⟨c, rfl, by assumption, h⟩
    · cases h; exact .inl rfl

theorem pollBody_error {offer : Option Bundle} {s : State} {e : Stop} (h : pollBody offer s = .error e) :
    ∃ cause axis, e = .raised cause axis ∧ faultRecordLegal true cause axis = true := by
  rcases bind_eq_error.mp h with h | ⟨u, _, h⟩
  · cases offer with
    | none => cases h
    | some c =>
      simp only [pollIntake] at h
      split at h
      · exact intake_error h
      · cases h
  rcases bind_eq_error.mp h with h | ⟨v, _, h⟩
  · exact retire_error h
  · cases h

theorem enqueueBody_cases {c : Bundle} {s t : State} (h : enqueueBody c s = .ok t) :
    (2 ≤ s.queue.length ∧ t = s.respond .rejected false 0#32) ∨
    (s.queue.length < 2 ∧ ∃ u, intake c s = .ok u ∧ t = u.respond .done false 0#32) := by
  unfold enqueueBody at h
  split at h
  · cases h; exact .inl ⟨by assumption, rfl⟩
  · obtain ⟨u, hu, h⟩ := bind_eq_ok.mp h
    cases h
    exact .inr ⟨by omega, u, hu, rfl⟩

theorem enqueueBody_error {c : Bundle} {s : State} {e : Stop} (h : enqueueBody c s = .error e) :
    ∃ cause axis, e = .raised cause axis ∧ faultRecordLegal true cause axis = true := by
  unfold enqueueBody at h
  split at h
  · cases h
  · rcases bind_eq_error.mp h with h | ⟨u, _, h⟩
    · exact intake_error h
    · cases h

/-- The meaning of a decoded command is its effect, run by itself. -/
theorem execCommand_eq (c : Command) (s : State) : exec (Instr.ofCommand c) s = runCommand (commandEffect c) s := by
  cases c <;> rfl

end Sys2Proof.Machine
end

