-- ==== Sys2Proof/Laws/PerInstr.lean ====
section
/-! SUPPORT. Laws/PerInstr.lean: one family of statements made per instruction: the form of an instruction's encoding. -/

namespace Sys2Proof.Laws.EncodedForm

open Sys2Proof

/-- The OP of a request row (30_encoding.md R72); none for a command row. -/
def opOf : Instr → Option (BitVec 4)
  | .tick _ => some 1#4
  | .stepMonitor _ _ => some 2#4
  | .poll _ => some 3#4
  | .enqueue _ => some 4#4
  | .readReg _ => some 5#4
  | .readTable _ => some 6#4
  | .reservedOp0 => some 0#4
  | .reservedOp7 => some 7#4
  | .reservedOpHigh low => some (1#1 ++ low)
  | .g0 _ => none
  | .g1 _ => none
  | .g20 => none
  | .g21 => none
  | .g90 => none
  | .g91 => none
  | .g92 _ => none
  | .m30 => none
  | .mOther _ _ => none
  | .gUnrecognized _ _ => none
  | .nUnrecognized _ _ => none
  | .unknownUnrecognized _ _ => none

/-- The instruction is carried by a request word with its OP, or, a command, by a bundle alone whose header has its
reserved bits 0 (30_encoding.md R70, R72, R81). -/
def Statement (i : Instr) : Prop :=
  match opOf i with
  | some op => ∃ r, (encode i).req = some r ∧ reqOp r = op
  | none => (encode i).req = none ∧ ∃ c, (encode i).cmd = some c ∧ cmdHeader c &&& 0x0000FFFFFFFF0003#64 = cmdHeader c

/-- A command word has no request beside it and a header with no reserved bit set. -/
theorem commandWord_form (mnem : BitVec 2) (major minor : BitVec 16) (args : Slots) :
    (commandWord mnem major minor args).req = none ∧
      ∃ c, (commandWord mnem major minor args).cmd = some c ∧ cmdHeader c &&& 0x0000FFFFFFFF0003#64 = cmdHeader c :=
  ⟨rfl, _, rfl, by rw [header_and_mask, cmdHeader_bundleWord]; simp⟩

theorem tick (now : Time) : Statement (.tick now) := ⟨_, rfl, reqOp_reqWord ..⟩
theorem stepMonitor (axis : Option Axis) (now : Time) : Statement (.stepMonitor axis now) := ⟨_, rfl, reqOp_reqWord ..⟩
theorem poll (offer : Option Bundle) : Statement (.poll offer) := ⟨_, rfl, reqOp_reqWord ..⟩
theorem enqueue (cmd : Bundle) : Statement (.enqueue cmd) := ⟨_, rfl, reqOp_reqWord ..⟩
theorem readReg (reg : BitVec 8) : Statement (.readReg reg) := ⟨_, rfl, reqOp_reqWord ..⟩
theorem readTable (index : BitVec 16) : Statement (.readTable index) := ⟨_, rfl, reqOp_reqWord ..⟩
theorem reservedOp0 : Statement .reservedOp0 := ⟨_, rfl, reqOp_reqWord ..⟩
theorem reservedOp7 : Statement .reservedOp7 := ⟨_, rfl, reqOp_reqWord ..⟩
theorem reservedOpHigh (low : BitVec 3) : Statement (.reservedOpHigh low) := ⟨_, rfl, reqOp_reqWord ..⟩
theorem g0 (args : Slots) : Statement (.g0 args) := commandWord_form ..
theorem g1 (args : Slots) : Statement (.g1 args) := commandWord_form ..
theorem g20 : Statement .g20 := commandWord_form ..
theorem g21 : Statement .g21 := commandWord_form ..
theorem g90 : Statement .g90 := commandWord_form ..
theorem g91 : Statement .g91 := commandWord_form ..
theorem g92 (args : Slots) : Statement (.g92 args) := commandWord_form ..
theorem m30 : Statement .m30 := commandWord_form ..
theorem mOther (major minor : BitVec 16) : Statement (.mOther major minor) := commandWord_form ..
theorem gUnrecognized (major minor : BitVec 16) : Statement (.gUnrecognized major minor) := commandWord_form ..
theorem nUnrecognized (major minor : BitVec 16) : Statement (.nUnrecognized major minor) := commandWord_form ..
theorem unknownUnrecognized (major minor : BitVec 16) : Statement (.unknownUnrecognized major minor) := commandWord_form ..

end Sys2Proof.Laws.EncodedForm
end

