-- ==== Sys2Proof/Tests/Slice0.lean ====
section
/-! SUPPORT. Tests/Slice0.lean: the WellFormed smoke, words written out from the spec's encodings, single steps against the
spec's vectors (95_test_vectors.md, configuration K1), and for each obligation with hypotheses a state that meets them. -/

set_option exponentiation.threshold 512

namespace Sys2Proof.Tests

open Sys2Proof Sys2Proof.Machine Sys2Proof.Claims

/-! ## WellFormed refuses each ill-formed shape -/

theorem test_wellFormed_refuses_G0_as_unrecognized : (Instr.gUnrecognized 0#16 0#16).wellFormed = false := by decide
theorem test_wellFormed_refuses_G92_as_unrecognized : (Instr.gUnrecognized 92#16 0#16).wellFormed = false := by decide
theorem test_wellFormed_refuses_M30_as_other : (Instr.mOther 30#16 0#16).wellFormed = false := by decide
theorem test_wellFormed_accepts_G92_1_and_M30_1 :
    (Instr.gUnrecognized 92#16 1#16).wellFormed = true ∧ (Instr.mOther 30#16 1#16).wellFormed = true := by decide

/-! ## Words written out from the encodings (30_encoding.md R71, R81, R91; 95_test_vectors.md 2.6) -/

theorem test_decode_TICK_41 : decodeReq 0x00000000000000290000000000000001#128 none = .ok (.tick 41#64) := by decide
theorem test_decode_STEP_MONITOR_Z : decodeReq 0x00000000000000090000000000000022#128 none =
    .ok (.stepMonitor (some .z) 9#64) := by decide
theorem test_decode_STEP_MONITOR_idle : decodeReq 0x00000000000000090000000000000032#128 none =
    .ok (.stepMonitor none 9#64) := by decide
theorem test_decode_POLL : decodeReq 3#128 none = .ok (.poll none) ∧
    decodeReq 3#128 (some 0x001E0001#352) = .ok (.poll (some 0x001E0001#352)) := by decide
theorem test_decode_ENQUEUE : decodeReq 4#128 (some 0x005B0000#352) = .ok (.enqueue 0x005B0000#352) ∧
    decodeReq 4#128 none = .error .enqueueWithoutCommand := by decide
theorem test_decode_READ_REG_1 : decodeReq 0x0105#128 none = .ok (.readReg 1#8) := by decide
theorem test_decode_READ_TABLE_FFFF : decodeReq 0xFFFF0006#128 none = .ok (.readTable 0xFFFF#16) := by decide
theorem test_decode_reserved_OPs : decodeReq 0#128 none = .ok .reservedOp0 ∧ decodeReq 7#128 none = .ok .reservedOp7 ∧
    decodeReq 8#128 none = .ok (.reservedOpHigh 0#3) ∧ decodeReq 15#128 none = .ok (.reservedOpHigh 7#3) := by decide
theorem test_decode_ignores_reserved_REQ_bits :
    decodeReq 0x0000000000000029FFFFFFFFFFFFFFF1#128 none = .ok (.tick 41#64) := by decide

/-- `G0 X1 Y10` (R91). -/
theorem test_decode_G0 :
    decodeCmd 0x41200000000900000000000A3F8000000008000000000001_0000000000000000#352 =
      .g0 { a0 := some ⟨.x, 1#32, 0#16, 0x3F800000#32⟩, a1 := some ⟨.y, 10#32, 0#16, 0x41200000#32⟩, a2 := none } := by
  decide
/-- `G1 X-3 F25000` (R91). -/
theorem test_decode_G1 :
    decodeCmd 0x46C35000000B0000000061A8C040000000080000FFFFFFFD_0000000000010000#352 =
      .g1 { a0 := some ⟨.x, 0xFFFFFFFD#32, 0#16, 0xC0400000#32⟩, a1 := some ⟨.f, 25000#32, 0#16, 0x46C35000#32⟩,
            a2 := none } := by decide
/-- `G92 X2` (R91). -/
theorem test_decode_G92 : decodeCmd 0x400000000008000000000002_00000000005C0000#352 =
    .g92 { a0 := some ⟨.x, 2#32, 0#16, 0x40000000#32⟩, a1 := none, a2 := none } := by decide
theorem test_decode_G20_G21 : decodeCmd 0x00140000#352 = .g20 ∧ decodeCmd 0x00150000#352 = .g21 := by decide
theorem test_decode_G90_G91 : decodeCmd 0x005A0000#352 = .g90 ∧ decodeCmd 0x005B0000#352 = .g91 := by decide
theorem test_decode_M30_M3 : decodeCmd 0x001E0001#352 = .m30 ∧ decodeCmd 0x00030001#352 = .mOther 3#16 0#16 := by decide
theorem test_decode_G92_1 : decodeCmd 0x00000001005C0000#352 = .gUnrecognized 92#16 1#16 := by decide
theorem test_decode_N10_and_Unknown : decodeCmd 0x000A0002#352 = .nUnrecognized 10#16 0#16 ∧
    decodeCmd 0x00000003#352 = .unknownUnrecognized 0#16 0#16 := by decide
theorem test_decode_ignores_reserved_header_bits : decodeCmd 0xFFFF00000000FFFC#352 = .g0 noArgs := by decide
/-- The tag bits 110 and 111, and a slot whose PRESENT bit is 0 (R83, R84). -/
theorem test_decode_reserved_tags :
    decodeSlot 0x00000000000E000000000005#96 = some ⟨.reserved6, 5#32, 0#16, 0#32⟩ ∧
    decodeSlot 0x00000000000F000000000005#96 = some ⟨.reserved7, 5#32, 0#16, 0#32⟩ ∧
    decodeSlot 0xFFFFFFFFFFF7FFFFFFFFFFFF#96 = none := by decide

/-- The bytes of `READ_REG 0x01` (20_memory.md R52): byte 0 holds bits 7 to 0. -/
theorem test_decodeBytes_READ_REG :
    decodeBytes [5#8, 1#8, 0#8, 0#8, 0#8, 0#8, 0#8, 0#8, 0#8, 0#8, 0#8, 0#8, 0#8, 0#8, 0#8, 0#8] = .ok (.readReg 1#8) := by
  decide
theorem test_decodeBytes_refuses_other_lengths : decodeBytes [5#8, 1#8] = .error .wrongLength := by decide
/-- The bytes of a DONE with DATA = 0x1234_5678 (30_encoding.md R74, 20_memory.md R52). -/
theorem test_bytesOfRsp : bytesOfRsp 0x1234567800000000#64 = [0#8, 0#8, 0#8, 0#8, 0x78#8, 0x56#8, 0x34#8, 0x12#8] ∧
    rspOfBytes [4#8, 0#8, 0#8, 0#8, 0#8, 0#8, 0#8, 0#8] = .ok 4#64 ∧ rspOfBytes [4#8] = .error .wrongLength := by decide
/-- DESIGN CHOICE (log 14): a bundle beside a TICK changes nothing. -/
theorem test_decode_ignores_a_bundle_beside_TICK :
    decodeReq 0x00000000000000290000000000000001#128 (some 0x001E0001#352) = .ok (.tick 41#64) := by decide
theorem test_decodeTableWord_rows : decodeTableWord 128 0x0105 = some (.readReg 1#8) ∧
    decodeTableWord 64 0x001E0001 = some .m30 := by decide

/-! ## The ramp table and the integers (95_test_vectors.md 2.1, 2.2, 2.4) -/

theorem test_buildTable : buildTable 40#32 4 = [40#32, 24#32, 18#32, 15#32] ∧ buildTable 3#32 3 = [3#32, 1#32, 0#32] := by
  decide
theorem test_accDelay_decDelay : accDelay 24 2 = 18 ∧ decDelay 18 2 = 23 := by decide
theorem test_floorIndex : (floorIndex [3#32, 2#32, 1#32] 5#32, floorIndex [3#32, 2#32, 1#32] 2#32,
    floorIndex [3#32, 2#32, 1#32] 1#32, floorIndex [3#32, 2#32, 1#32] 0#32) = (0, 1, 2, 2) := by decide
theorem test_isqrt : (isqrt 0, isqrt 2, isqrt 25, isqrt 101, isqrt 10001) = (0, 1, 5, 10, 100) := by decide
theorem test_cruiseDelayOf : cruiseDelayOf 12 = 83333#32 ∧ cruiseDelayOf 2000000 = 0#32 := by decide
theorem test_lowInterval : (lowInterval 1#32 2#32, lowInterval 40#32 2#32, lowInterval 3#32 5#32) = (2, 38, 5) := by decide

/-! ## Single steps under K1 -/

/-- Configuration K1 (95_test_vectors.md section 0). -/
def k1Config : Config :=
  { rampLen := 4, ramp := .built 40#32, signalLength := 2#32, resolution := ⟨1#32, 1#32, 1#32⟩, maxFeedRate := 50000#32,
    defaultFeedRate := 10000#32 }

/-- K1 after reset. -/
def k1 : State := State.ofConfig k1Config

/-- K1 with the X unit and the queue given. -/
def withX (u : AxisUnit) (queue : List Bundle) : State := { k1 with axes := { k1.axes with x := u }, queue := queue }

/-- `G0 X4` (program P1). -/
def cmdX4 : Bundle := 0x40800000000800000000000400000000_00000000#352

/-- The arguments of an axis move with integral values. -/
def intArg (tag : ArgTag) (v : Word) : Option Arg := some ⟨tag, v, 0#16, 0#32⟩

/-- X as `AxisSetTarget(0, 4, 50000)` leaves it. -/
def setX : AxisUnit := ⟨4#32, 0#32, .positive, 0, 0, 20#32, 0#64, false, true⟩
/-- X primed at 1. -/
def primedX : AxisUnit := ⟨4#32, 1#32, .positive, 1, 0, 20#32, 41#64, false, true⟩
/-- X with its first pulse high. -/
def highX : AxisUnit := ⟨4#32, 1#32, .positive, 1, 0, 20#32, 43#64, true, true⟩
/-- X with its last pulse high. -/
def lastX : AxisUnit := ⟨4#32, 4#32, .positive, 0, 0, 20#32, 143#64, true, true⟩

/-- A projection of a next state. -/
def after {α : Type} (f : State → α) : Host.Outcome State Fault Refusal → Option α
  | .next t => some (f t)
  | _ => none

theorem test_TICK_advances_the_slot : after (fun t => (t.rrSlot, t.rsp)) (exec (.tick 1#64) k1) = some (1#2, some 0#64) := by
  decide
theorem test_TICK_primes_X : after (fun t => (t.axis .x, t.rrSlot, t.effects)) (exec (.tick 1#64) (withX setX [cmdX4])) =
    some (primedX, 1#2, []) := by decide
theorem test_STEP_MONITOR_rise : after (fun t => (t.axis .x, t.effects))
    (exec (.stepMonitor (some .x) 41#64) (withX primedX [cmdX4])) = some (highX, [.stepRise .x]) := by decide
theorem test_STEP_MONITOR_fall : after (fun t => (t.axis .x, t.effects))
    (exec (.stepMonitor (some .x) 45#64) (withX highX [cmdX4])) =
      some (⟨4#32, 2#32, .positive, 2, 0, 20#32, 67#64, false, true⟩, [.stepFall .x]) := by decide
theorem test_POLL_G0_X4 : after (fun t => (t.axis .x, t.queue, t.effects, t.rsp)) (exec (.poll (some cmdX4)) k1) =
    some (setX, [cmdX4], [.setDir .x true], some 4#64) := by decide
theorem test_POLL_retires_one : after (fun t => (t.queue, t.mode))
    (exec (.poll none) { k1 with queue := [0x005A0000#352, 0x005B0000#352] }) =
      some ([0x005B0000#352], .relative) := by decide
theorem test_ENQUEUE_decodes : after (fun t => (t.queue, t.mode, t.rsp)) (exec (.enqueue 0x005B0000#352) k1) =
    some ([0x005B0000#352], .relative, some 0#64) := by decide
theorem test_ENQUEUE_rejects : after (fun t => (t.queue, t.rsp))
    (exec (.enqueue cmdX4) { k1 with queue := [cmdX4, 0x005B0000#352] }) =
      some ([cmdX4, 0x005B0000#352], some 1#64) := by decide
theorem test_READ_REG_STATUS : after State.rsp (exec (.readReg 0#8) k1) = some (some 0x0000007000000000#64) := by decide
/-- STATUS at t = 42 of program P1. -/
theorem test_READ_REG_STATUS_in_motion : statusView { withX highX [cmdX4] with rrSlot := 1#2 } 0#8 = 0x24E2#32 := by decide
theorem test_READ_TABLE : after State.rsp (exec (.readTable 1#16) k1) = some (some 0x0000001800000000#64) ∧
    after State.rsp (exec (.readTable 4#16) k1) = some (some 0#64) := by decide
theorem test_reserved_OP : after (fun t => (statusView t 1#8, t.effects, t.rsp)) (exec .reservedOp7 k1) =
    some (0x35#32, [.diag .fault 0x35#64], some 2#64) := by decide
theorem test_reserved_OP_high : after (fun t => statusView t 1#8) (exec (.reservedOpHigh 7#3) k1) = some 0x35#32 := by decide
theorem test_reserved_OP_halted : after (fun t => (t.halted, t.effects, t.rsp)) (exec .reservedOp0 { k1 with halted := true }) =
    some (true, [], some 2#64) := by decide
theorem test_G0_three_axes : after (fun t => ((t.axis .x).cruiseDelay, (t.axis .y).cruiseDelay, (t.axis .z).cruiseDelay))
    (exec (.g0 ⟨intArg .x 3#32, intArg .y 4#32, intArg .z 12#32⟩) k1) = some (86#32, 65#32, 21#32) := by decide
theorem test_G0_later_slot_and_feed : after (fun t => ((t.axis .x).target, (t.axis .x).cruiseDelay, t.feedRate))
    (exec (.g0 ⟨intArg .x 1#32, intArg .f 12#32, intArg .x 1#32⟩) k1) = some (1#32, 83333#32, 12#32) := by decide
theorem test_G1_relative : after (fun t => (t.axis .x, t.feedRate, t.effects))
    (exec (.g1 ⟨intArg .x 0xFFFFFFFD#32, intArg .f 25000#32, none⟩) { k1 with mode := .relative }) =
      some (⟨0xFFFFFFFD#32, 0#32, .negative, 0, 0, 40#32, 0#64, false, false⟩, 25000#32, [.setDir .x false]) := by decide
/-- Program P4a. -/
theorem test_G1_zero_speed : after (fun t => (statusView t 0#8, statusView t 1#8, t.feedRate))
    (exec (.g1 ⟨intArg .x 1#32, intArg .y 10#32, intArg .f 1#32⟩) k1) = some (0x71#32, 2#32, 10000#32) := by decide
theorem test_G20 : after (fun t => statusView t 1#8) (exec .g20 k1) = some 0x31#32 := by decide
theorem test_G21 : exec .g21 k1 = .next k1 := rfl
theorem test_G90 : after State.mode (exec .g90 { k1 with mode := .relative }) = some .absolute := by decide
theorem test_G91 : after State.mode (exec .g91 k1) = some .relative := by decide
theorem test_G92 : after State.homeOffset (exec (.g92 ⟨intArg .y 0xFFFFFFF9#32, intArg .z 1#32, none⟩)
    { k1 with homeOffset := ⟨2#32, 0#32, 0#32⟩ }) = some ⟨2#32, 0xFFFFFFF9#32, 1#32⟩ := by decide
theorem test_G92_overflow : after (fun t => statusView t 1#8)
    (exec (.g92 ⟨intArg .x 0x7FFFFFFF#32, none, none⟩) { k1 with resolution := ⟨2#32, 1#32, 1#32⟩ }) = some 3#32 := by decide
theorem test_M30 : after State.feedRate (exec .m30 { k1 with feedRate := 25000#32 }) = some 50000#32 := by decide
theorem test_M3 : exec (.mOther 3#16 0#16) k1 = .next k1 := rfl
theorem test_G92_1 : after State.effects (exec (.gUnrecognized 92#16 1#16) k1) =
    some [.diag .unrecognizedCommand 0x00000001005C0000#64] := by decide
theorem test_N10 : after State.effects (exec (.nUnrecognized 10#16 0#16) k1) =
    some [.diag .unrecognizedCommand 0x000A0002#64] := by decide
theorem test_Unknown : after State.effects (exec (.unknownUnrecognized 0#16 0#16) k1) =
    some [.diag .unrecognizedCommand 3#64] := by decide
/-- Priming at 0 with a delay of 0 (configuration K2). -/
theorem test_prime_clamp : after (fun t => (t.axis .x).nextEventTime)
    (exec (.stepMonitor (some .x) 0#64)
      { withX ⟨1#32, 0#32, .positive, 0, 0, 0#32, 0#64, false, true⟩ [cmdX4] with table := [0#32] }) = some 1#64 := by decide
/-- A row of the opcode table placed and run as the first instruction after reset. -/
theorem test_withFetchWord_runs : after State.rsp (step (k1.withFetchWord 128 0x0105)) = some (some 0x0000003000000000#64) ∧
    after State.feedRate (step (k1.withFetchWord 64 0x001E0001)) = some 50000#32 := by decide

/-! ## Witnesses: for each obligation with hypotheses, a state and operands that meet all of them -/

/-- `withX` meets the invariant wherever its X unit does. -/
theorem inv_withX {u : AxisUnit} {queue : List Bundle} (hu : u.Inv 4) (hq : queue.length ≤ 2)
    (h0 : queue = [] → (withX u queue).allOnTarget = true) : (withX u queue).Inv where
  table_length := show 1 ≤ k1.rampLen ∧ k1.rampLen ≤ 65536 by decide
  table_nonIncreasing := show nonIncreasing k1.table = true by decide
  signalLength_pos := show 1 ≤ k1.signalLength.toNat by decide
  resolution_pos := show ∀ a, 1 ≤ (k1.resolution.get a).toNat by intro a; cases a <;> decide
  axis_inv := by
    have hr : AxisUnit.Inv 4 AxisUnit.reset :=
      ⟨by decide, by decide, fun h => absurd h (by decide), fun h => absurd rfl h⟩
    intro a
    cases a
    · exact hu
    · exact hr
    · exact hr
  queue_length := hq
  idle_onTarget := h0
  fault_record := rfl

theorem inv_setX : setX.Inv 4 := ⟨by decide, by decide, fun h => absurd h (by decide), fun _ => by decide⟩
theorem inv_primedX : primedX.Inv 4 := ⟨by decide, by decide, fun _ => by decide, fun _ => by decide⟩
theorem inv_resetX : AxisUnit.reset.Inv 4 :=
  ⟨by decide, by decide, fun h => absurd h (by decide), fun h => absurd rfl h⟩

/-- The state after reset under K1. -/
theorem inv_k1 : k1.Inv := inv_withX (queue := []) inv_resetX (by decide) (by decide)

/-- Witness of DecodeOfEncodeIsTheInstruction and CarriedBytesDecodeToTheInstruction, at the edges of the checks. -/
theorem witness_wellFormed : (Instr.tick 41#64).wellFormed = true ∧ (Instr.gUnrecognized 2#16 0#16).wellFormed = true ∧
    (Instr.gUnrecognized 0#16 1#16).wellFormed = true ∧ (Instr.mOther 31#16 0#16).wellFormed = true := by decide

/-- The tags of 30_encoding.md R84 by their codes, in slots with PRESENT (bit 51) set. -/
theorem test_decodeSlot_tags :
    [0#96, 1#96, 2#96, 3#96, 4#96, 5#96, 6#96, 7#96].map (fun t : SlotWord => (decodeSlot (0x8000000000000#96 ||| t <<< 48)).map Arg.tag) =
      [some .x, some .y, some .z, some .f, some .p, some .r, some .reserved6, some .reserved7] := by decide

/-- Witness of the slot clauses of IgnoredBundleBitsDoNotMatter: an empty slot with every other bit set, and R with every bit
of its fields set. -/
theorem witness_slot_fields :
    (0xFFFFFFFFFFF7FFFFFFFFFFFF#96).toNat / 2 ^ 51 % 2 = 0 ∧ (0xFFFFFFFF000DFFFFFFFFFFFF#96).toNat / 2 ^ 51 % 2 = 1 ∧
    decodeSlot 0xFFFFFFFF000DFFFFFFFFFFFF#96 = some ⟨.r, 0xFFFFFFFF#32, 0xFFFF#16, 0xFFFFFFFF#32⟩ := by decide

/-- Witness of IgnoredBundleBitsDoNotMatter: two different bundles that agree in every bit that is not ignored. -/
theorem witness_IgnoredBundleBitsDoNotMatter :
    let c : Bundle := 0#352
    let d : Bundle := 0xFFFFFFFFFFF7FFFFFFFFFFFF_FFFF00000000FFFC#352
    c ≠ d ∧ usedHeaderBits (cmdHeader c) = usedHeaderBits (cmdHeader d) ∧
      usedSlotBits (cmdSlot0 c) = usedSlotBits (cmdSlot0 d) ∧ usedSlotBits (cmdSlot1 c) = usedSlotBits (cmdSlot1 d) ∧
      usedSlotBits (cmdSlot2 c) = usedSlotBits (cmdSlot2 d) := by decide

/-- Witness of each clause of RequestFieldsByPlaceValue and of the second clause of EveryWordDecodesOrNamesWhyNot. -/
theorem witness_RequestFieldsByPlaceValue :
    (0x00000000000000290000000000000001#128).toNat % 16 = 1 ∧ (0x32#128).toNat % 16 = 2 ∧ (3#128).toNat % 16 = 3 ∧
    (4#128).toNat % 16 = 4 ∧ (0xFF05#128).toNat % 16 = 5 ∧ (0xFFFF0006#128).toNat % 16 = 6 ∧ (0x10#128).toNat % 16 = 0 ∧
    (7#128).toNat % 16 = 7 ∧ 8 ≤ (8#128).toNat % 16 ∧ 8 ≤ (15#128).toNat % 16 := by decide

/-- Witness of UnusedRequestFieldsDoNotMatter: two READ_REG words that differ only in fields it does not use. -/
theorem witness_UnusedRequestFieldsDoNotMatter :
    let r : ReqWord := 0x0105#128
    let q : ReqWord := 0x00000000000000290000000A00020175#128
    r ≠ q ∧ reqOp r = reqOp q ∧ (reqOp r = 1#4 ∨ reqOp r = 2#4 → reqNow r = reqNow q) ∧
      (reqOp r = 2#4 → reqAxis r = reqAxis q) ∧ (reqOp r = 5#4 → reqReg r = reqReg q) ∧
      (reqOp r = 6#4 → reqIndex r = reqIndex q) ∧ (reqOp r = 3#4 ∨ reqOp r = 4#4 → (none : Option Bundle) = some cmdX4) := by
  decide

/-- Witness of StepRunsTheDecodedInstruction: its first clause and its second. -/
theorem witness_StepRunsTheDecodedInstruction :
    let s : State := { k1 with inbox := [.request 0x0105#128 none] }
    s.inbox = [.request 0x0105#128 none] ∧ decodeReq 0x0105#128 none = .ok (.readReg 1#8) ∧
      (Instr.readReg 1#8).wellFormed = true ∧ k1.inbox = [] := ⟨rfl, by decide, rfl, rfl⟩

/-- Witness of ResetInputLeavesTheResetValues, from a halted state. -/
theorem witness_ResetInputLeavesTheResetValues :
    let s : State := { k1 with halted := true, inbox := [.reset k1Config] }
    s.inbox = [.reset k1Config] ∧ legalConfig k1Config = true := ⟨rfl, by decide⟩

/-- Witness of its two sources of the table: a built one and a supplied one, which no recurrence builds, each legal. -/
theorem witness_ResetInputLeavesTheResetValues_table :
    k1Config.ramp = .built 40#32 ∧ k1Config.rampLen = 4 ∧
    (let c := { k1Config with rampLen := 3, ramp := .supplied [3#32, 2#32, 1#32] }
     legalConfig c = true ∧ c.ramp = .supplied [3#32, 2#32, 1#32] ∧ (State.ofConfig c).table = [3#32, 2#32, 1#32]) := by decide

/-- Witness of IllegalConfigurationGivesNoState: one clause broken at its bound, and none broken. -/
theorem witness_IllegalConfigurationGivesNoState :
    legalConfig { k1Config with rampLen := 0 } = false ∧ legalConfig { k1Config with ramp := .built 0#32 } = false ∧
    legalConfig { k1Config with ramp := .supplied [3#32, 2#32, 1#32] } = false ∧
    legalConfig { k1Config with ramp := .supplied [3#32, 2#32, 3#32, 1#32] } = false ∧
    legalConfig { k1Config with signalLength := 0#32 } = false ∧
    legalConfig { k1Config with resolution := ⟨1#32, 1#32, 0#32⟩ } = false ∧
    legalConfig { k1Config with idxW := 12 } = false ∧
    legalConfig { k1Config with rampLen := 1, ramp := .supplied [0#32] } = true := by decide

/-- Witness of HaltedIsLeftOnlyByReset. -/
theorem witness_HaltedIsLeftOnlyByReset :
    ∃ t, step { k1 with halted := true, inbox := [.request 3#128 none] } = .next t ∧ t.halted = true := ⟨_, rfl, rfl⟩

/-- Witness of BuildTableFollowsTheRecurrence and BuiltTableNeverRises: the last index of a table, and the smallest table. -/
theorem witness_BuildTableFollowsTheRecurrence : 1 ≤ 4 ∧ 1 ≤ 3 ∧ 3 < 4 ∧ (buildTable 40#32 4).getD 3 0#32 = 15#32 ∧
    1 ≤ 1 ∧ buildTable 40#32 1 = [40#32] := by decide

/-- Witness of FloorIndexIsTheFirstSmallEnough: an entry small enough, and none. -/
theorem witness_FloorIndexIsTheFirstSmallEnough :
    k1.table ≠ [] ∧ (k1.table.getD 3 0#32).toNat ≤ (15#32).toNat ∧
    ∀ j, j < k1.table.length → (14#32).toNat < (k1.table.getD j 0#32).toNat := by decide

/-- Witness of RampNextFollowsThePolicies: at the target, accelerating, at cruise, and decelerating at the last step. -/
theorem witness_RampNextFollowsThePolicies :
    AxisUnit.reset.Inv 4 ∧ AxisUnit.reset.position = AxisUnit.reset.target ∧ setX.Inv 4 ∧ setX.position ≠ setX.target ∧
    ((k1.table.getD setX.accIndex 0#32).toNat ≤ setX.cruiseDelay.toNat) = False ∧
    (let u : AxisUnit := { setX with cruiseDelay := 40#32 }
     (k1.table.getD u.accIndex 0#32).toNat ≤ u.cruiseDelay.toNat) ∧
    (let u : AxisUnit := { setX with position := 3#32, accIndex := 1 }
     u.Inv 4 ∧ |u.target.toInt - (4#32 : Word).toInt| ≤ (u.accIndex : Int) - u.accIndexFloor - 1) := by
  refine ⟨inv_resetX, rfl, inv_setX, by decide, by decide, by decide, ⟨by decide, by decide, ?_, ?_⟩, by decide⟩
  · exact fun h => absurd h (by decide)
  · exact fun _ => by decide

/-- `FloorIndex` with T = [3, 2, 1] (41_axis_ramp.md R111) as the floor `RampSetTarget` writes, and none. -/
theorem test_rampSetTarget_floor :
    let s : State := { k1 with table := [3#32, 2#32, 1#32] }
    [some 5#32, some 2#32, some 1#32, some 0#32, none].map (fun x => ((rampSetTarget .x 6#32 1#32 x s).axis .x).accIndexFloor) =
      [0, 1, 2, 2, 0] := by decide

/-- Witness of RampGivesOneDelayPerStep and EvenMoveDelaysArePalindrome: a table and an even distance. -/
theorem witness_EvenMoveDelaysArePalindrome :
    k1.table ≠ [] ∧ 2 ∣ ((4#32 : Word).toInt - (k1.axis .x).position.toInt).natAbs ∧
    (4#32 : Word).toInt - (k1.axis .x).position.toInt ≠ 0 := by decide

/-- Witness of StepMonitorWithNothingDueChangesNothing, for each of its cases, the last one tick early. -/
theorem witness_StepMonitorWithNothingDueChangesNothing :
    (withX primedX [cmdX4]).halted = false ∧ k1.queue = [] ∧ (withX primedX [cmdX4]).onTarget .y = true ∧
    ((withX primedX [cmdX4]).axis .x).nextEventTime ≠ 0#64 ∧
    (40#64).toNat < ((withX primedX [cmdX4]).axis .x).nextEventTime.toNat := by decide

/-- Witness of StepMonitorPrimesTheMove, at the last time that can be scheduled. -/
theorem witness_StepMonitorPrimesTheMove :
    let s := withX setX [cmdX4]
    s.halted = false ∧ s.queue ≠ [] ∧ (s.axis .x).nextEventTime = 0#64 ∧
      (∃ t, rampNext .x s = .ok (some 40#32, t)) ∧ (0xFFFFFFFFFFFFFFD7#64).toNat + (40#32).toNat < 2 ^ 64 :=
  ⟨rfl, by decide, rfl, ⟨_, rfl⟩, by decide⟩

/-- Witness of StepMonitorRaisesTheDuePulse, at the tick the event falls due. -/
theorem witness_StepMonitorRaisesTheDuePulse :
    let s := withX primedX [cmdX4]
    s.halted = false ∧ s.queue ≠ [] ∧ (s.axis .x).nextEventTime ≠ 0#64 ∧
      (s.axis .x).nextEventTime.toNat ≤ (41#64).toNat ∧ (s.axis .x).pulseHigh = false ∧
      (41#64).toNat + s.signalLength.toNat < 2 ^ 64 := by decide

/-- Witness of StepMonitorLowersTheDuePulse: with a next step, and at the end of the move. -/
theorem witness_StepMonitorLowersTheDuePulse :
    (let s := withX highX [cmdX4]
     s.halted = false ∧ s.queue ≠ [] ∧ (s.axis .x).nextEventTime ≠ 0#64 ∧
      (s.axis .x).nextEventTime.toNat ≤ (43#64).toNat ∧ (s.axis .x).pulseHigh = true ∧
      (∃ t, rampNext .x s = .ok (some 24#32, t)) ∧
      (43#64).toNat + max ((24#32).toNat - s.signalLength.toNat) s.signalLength.toNat < 2 ^ 64) ∧
    (let s := withX lastX [cmdX4]
     s.halted = false ∧ s.queue ≠ [] ∧ (s.axis .x).nextEventTime ≠ 0#64 ∧
      (s.axis .x).nextEventTime.toNat ≤ (143#64).toNat ∧ (s.axis .x).pulseHigh = true ∧
      ∃ t, rampNext .x s = .ok (none, t)) :=
  ⟨⟨rfl, by decide, by decide, by decide, rfl, ⟨_, rfl⟩, by decide⟩,
   ⟨rfl, by decide, by decide, by decide, rfl, ⟨_, rfl⟩⟩⟩

/-- Witness of ScheduledTimePastTheEndHalts: each case where the sum is 2^64 exactly, and the slot that serves X. -/
theorem witness_ScheduledTimePastTheEndHalts :
    (∃ t, rampNext .x (withX setX [cmdX4]) = .ok (some 40#32, t)) ∧
    (withX setX [cmdX4]).queue ≠ [] ∧ 2 ^ 64 = (0xFFFFFFFFFFFFFFD8#64).toNat + (40#32).toNat ∧
    ((withX primedX [cmdX4]).axis .x).nextEventTime.toNat ≤ (0xFFFFFFFFFFFFFFFE#64).toNat ∧
    2 ^ 64 = (0xFFFFFFFFFFFFFFFE#64).toNat + k1.signalLength.toNat ∧
    (∃ t, rampNext .x (withX highX [cmdX4]) = .ok (some 24#32, t)) ∧
    2 ^ 64 = (0xFFFFFFFFFFFFFFEA#64).toNat + max ((24#32).toNat - k1.signalLength.toNat) k1.signalLength.toNat ∧
    served (withX setX [cmdX4]) (some .x) :=
  ⟨⟨_, rfl⟩, by decide, by decide, by decide, by decide, ⟨_, rfl⟩, by decide, rfl⟩

/-- Witness of TickServesItsSlotAndAdvances, TimerOperationsTouchOneAxis and CommandsLeaveTheQueueOnlyOnTarget: a STEP_MONITOR
that polls and a TICK that does. -/
theorem witness_TickServesItsSlotAndAdvances :
    let s := withX setX [cmdX4]
    s.halted = false ∧ served s (some .x) ∧ (∃ t, exec (.stepMonitor (some .x) 1#64) s = .next t ∧ t.halted = false) ∧
      ∃ t, exec (.tick 1#64) s = .next t ∧ t.halted = false := ⟨rfl, rfl, ⟨_, rfl, rfl⟩, ⟨_, rfl, rfl⟩⟩

/-- Witness of TickServesItsSlotAndAdvances in the idle slot, and where the TICK faults. -/
theorem witness_TickServesItsSlotAndAdvances_edges :
    served { k1 with rrSlot := 3#2 } none ∧
    ∃ t, exec (.stepMonitor (some .x) 0xFFFFFFFFFFFFFFF6#64) (withX setX [cmdX4]) = .next t ∧ t.halted = true :=
  ⟨rfl, _, rfl, rfl⟩

/-- Witness of TickAndStepMonitorComplete, at the largest time it takes. -/
theorem witness_TickAndStepMonitorComplete :
    (withX setX [cmdX4]).Inv ∧ (withX setX [cmdX4]).halted = false ∧ (0xFFFFFFFF00000000#64).toNat + 2 ^ 32 ≤ 2 ^ 64 :=
  ⟨inv_withX inv_setX (by decide) (by decide), rfl, by decide⟩

/-- Witness of NextEventOnlyMovesForward and PulseHoldsForSignalLength: a rise, and a later time within the pulse. -/
theorem witness_PulseHoldsForSignalLength :
    let s := withX primedX [cmdX4]
    1 ≤ s.signalLength.toNat ∧ (s.axis .x).nextEventTime ≠ 0#64 ∧
      (∃ t, axisPoll .x 41#64 s = .ok t ∧ (t.axis .x).pulseHigh ≠ (s.axis .x).pulseHigh ∧
        (t.axis .x).nextEventTime ≠ 0#64) ∧ (42#64).toNat < (41#64).toNat + s.signalLength.toNat :=
  ⟨by decide, by decide, ⟨_, rfl, by decide, by decide⟩, by decide⟩

/-- Witness of each clause of PollWithoutRetirement. -/
theorem witness_PollWithoutRetirement :
    k1.halted = false ∧ k1.queue = [] ∧ 2 ≤ (withX setX [cmdX4, cmdX4]).queue.length ∧
    (withX setX [cmdX4, cmdX4]).allOnTarget = false ∧ (withX setX [cmdX4]).queue = [cmdX4] ∧
    (withX setX [cmdX4]).allOnTarget = false := by decide

/-- Witness of PollDecodesIntoAnEmptyQueue and EnqueueDecodesIntoAnEmptyQueue: a move, a modal command and a fault. -/
theorem witness_PollDecodesIntoAnEmptyQueue :
    k1.halted = false ∧ k1.queue = [] ∧
    (∃ t, exec (Instr.ofCommand (decodeCmd cmdX4)) { k1 with queue := [cmdX4] } = .next t ∧ t.allOnTarget = false) ∧
    (∃ t, exec (Instr.ofCommand (decodeCmd 0x005B0000#352)) { k1 with queue := [0x005B0000#352] } = .next t ∧
      t.allOnTarget = true) ∧
    ∃ t, exec (Instr.ofCommand (decodeCmd 0x00140000#352)) { k1 with queue := [0x00140000#352] } = .next t ∧
      t.halted = true :=
  ⟨rfl, rfl, ⟨_, rfl, by decide⟩, ⟨_, rfl, by decide⟩, ⟨_, rfl, rfl⟩⟩

/-- Witness of each clause of PollRetiresAndDecodesTheNext. -/
theorem witness_PollRetiresAndDecodesTheNext :
    (let s := withX AxisUnit.reset [cmdX4]
     s.halted = false ∧ s.queue ≠ [] ∧ s.allOnTarget = true ∧ afterRetirement s none = [] ∧
      afterRetirement s (some 0x005B0000#352) = [0x005B0000#352]) ∧
    ∃ t, exec (Instr.ofCommand (decodeCmd 0x005B0000#352)) { k1 with queue := [0x005B0000#352] } = .next t :=
  ⟨by decide, _, rfl⟩

/-- Witness of each clause of EnqueueAppendsOrRejects. -/
theorem witness_EnqueueAppendsOrRejects :
    (withX setX [cmdX4]).queue = [cmdX4] ∧ (withX setX [cmdX4, cmdX4]).queue.length = 2 ∧
    (withX setX [cmdX4, cmdX4]).halted = false := by decide

/-- Witness of CommandsLeaveTheQueueOnlyOnTarget and AnswersFollowTheStatusRule: a POLL that retires. -/
theorem witness_CommandsLeaveTheQueueOnlyOnTarget :
    ∃ t, exec (.poll none) (withX AxisUnit.reset [cmdX4]) = .next t ∧ t.queue = [] := ⟨_, rfl, rfl⟩

/-- Witness of MovesAreNeverSuperseded: a POLL and an ENQUEUE while X moves. -/
theorem witness_MovesAreNeverSuperseded :
    let s := withX setX [cmdX4]
    s.Inv ∧ s.allOnTarget = false ∧ (∃ t, exec (.poll (some cmdX4)) s = .next t) ∧
      ∃ t, exec (.enqueue cmdX4) s = .next t :=
  ⟨inv_withX inv_setX (by decide) (by decide), by decide, ⟨_, rfl⟩, ⟨_, rfl⟩⟩

/-- Witness of both bounds of ReadsAnswerAndChangeNothing and of StatusViewIsTheRegisterMap's last clause. -/
theorem witness_ReadsAnswerAndChangeNothing :
    (3#16).toNat < k1.rampLen ∧ k1.rampLen ≤ (4#16).toNat ∧ 40 ≤ (40#8).toNat ∧ 40 ≤ (255#8).toNat := by decide

/-- Witness of StatusAndFaultRegisterFields, with a full queue. -/
theorem witness_StatusAndFaultRegisterFields : (withX setX [cmdX4, cmdX4]).queue.length ≤ 2 := by decide

/-- Witness of ReservedOpsHaltTheBlock and HaltedInstructionsChangeNothing: a running and a halted block, and each bound of
the reserved OPs. -/
theorem witness_ReservedOpsHaltTheBlock :
    let s : State := { k1 with inbox := [.request 0x17#128 none] }
    s.halted = false ∧ s.inbox = [.request 0x17#128 none] ∧ 7 ≤ (0x17#128).toNat % 16 ∧ (0x10#128).toNat % 16 = 0 ∧
      ({ s with halted := true } : State).halted = true := ⟨rfl, rfl, by decide, by decide, rfl⟩

/-- Witness of FaultsArePrecise. -/
theorem witness_FaultsArePrecise :
    k1.halted = false ∧ ∃ t, exec .g20 k1 = .next t ∧ t.halted = true := ⟨rfl, _, rfl, rfl⟩

/-- Witness of AnswersFollowTheStatusRule, TableAndConfigurationAreReadOnly and SlowOperationsLeaveTheRest. -/
theorem witness_AnswersFollowTheStatusRule :
    ¬ isCommand (.poll (some cmdX4)) ∧ ∃ t, exec (.poll (some cmdX4)) k1 = .next t ∧ t.halted = false := by
  refine ⟨?_, _, rfl, rfl⟩
  rintro ⟨c, h⟩
  cases c <;> cases h

/-- Witness of the headers of ModalCommandsWriteTheirField, InchModeHaltsTheBlock and SetOffsetStoresTheScaledArguments. -/
theorem witness_ModalCommandsWriteTheirField :
    k1.halted = false ∧ usedHeaderBits (cmdHeader 0xFFFF_0000_005A_FFFC#352) = 0x005A0000#64 ∧
    usedHeaderBits (cmdHeader 0x005B0000#352) = 0x005B0000#64 ∧ usedHeaderBits (cmdHeader 0x00150000#352) = 0x00150000#64 ∧
    usedHeaderBits (cmdHeader 0x001E0001#352) = 0x001E0001#64 ∧
    usedHeaderBits (cmdHeader 0x1001E0001#352) ≠ 0x001E0001#64 ∧ cmdHeader 0x1001E0001#352 &&& 3#64 = 1#64 ∧
    usedHeaderBits (cmdHeader 0x005C0000#352) = 0x005C0000#64 := by decide

/-- Witness of InchModeHaltsTheBlock: an empty queue, G20 behind a command that retires, and a command that retires alone. -/
theorem witness_InchModeHaltsTheBlock :
    usedHeaderBits (cmdHeader 0x00140000#352) = 0x00140000#64 ∧ k1.queue = [] ∧
    (withX AxisUnit.reset [cmdX4, 0x00140000#352]).queue = [cmdX4, 0x00140000#352] ∧
    (withX AxisUnit.reset [cmdX4, 0x00140000#352]).allOnTarget = true ∧ (withX AxisUnit.reset [cmdX4]).queue = [cmdX4] ∧
    (withX AxisUnit.reset [cmdX4]).allOnTarget = true := by decide

/-- Witness of UnrecognizedCommandsAreReported: a bundle of each of its three rows. -/
theorem witness_UnrecognizedCommandsAreReported :
    decodeCmd 0x00020000#352 = .gUnrecognized 2#16 0#16 ∧ decodeCmd 0x00000002#352 = .nUnrecognized 0#16 0#16 ∧
    decodeCmd 0xFFFFFFFF0003#352 = .unknownUnrecognized 0xFFFF#16 0xFFFF#16 := by decide

/-- Witness of IntegerArgumentsScaleExactly. -/
theorem witness_IntegerArgumentsScaleExactly :
    let arg : Arg := ⟨.f, 0#32, 0#16, 0#32⟩
    arg.frac = 0#16 ∧ 0 ≤ arg.int.toInt := by decide

/-- Witness of SetOffsetStoresTheScaledArguments: values at both ends of i32, one past the end, and an earlier axis. -/
theorem witness_SetOffsetStoresTheScaledArguments :
    k1.halted = false ∧ inI32 (argToSteps ⟨.x, 0x7FFFFFFF#32, 0#16, 0#32⟩ (k1.resolution.get .x)) = true ∧
    inI32 (argToSteps ⟨.x, 0x80000000#32, 0#16, 0#32⟩ (k1.resolution.get .x)) = true ∧
    (withTag ⟨intArg .y 0x40000000#32, intArg .x 1#32, none⟩ (tagOf .y)).getLast? = intArg .y 0x40000000#32 ∧
    inI32 (argToSteps ⟨.y, 0x40000000#32, 0#16, 0#32⟩ 2#32) = false ∧ before .x .y ∧
    inI32 (argToSteps ⟨.x, 1#32, 0#16, 0#32⟩ 1#32) = true := by
  unfold before
  decide

/-- Witness of both clauses of MovesStartEveryMovingAxis, and of AllocatedSpeedsStayBelowTheRequest. -/
theorem witness_MovesStartEveryMovingAxis :
    let args : Slots := ⟨intArg .x 3#32, intArg .y 4#32, none⟩
    k1.Inv ∧ k1.halted = false ∧ k1.allOnTarget = true ∧ (∀ a, inI32 (exactTarget args k1 a) = true) ∧
      distOf args k1 ≠ 0 ∧ g0Speed args k1 ≠ 0#32 ∧ (∀ a, disp args k1 a ≠ 0 → spd (g0Speed args k1) args k1 a ≠ 0) ∧
      feedAfter args k1 ≠ 0#32 ∧ ∀ a, disp args k1 a ≠ 0 → spd (feedAfter args k1) args k1 a ≠ 0 := by
  refine ⟨inv_k1, by decide, by decide, ?_, by decide, by decide, ?_, by decide, ?_⟩ <;> intro a <;> cases a <;> decide

/-- Witness of DegenerateMovesOnlyWriteTheFeedRate: no distance, and no speed, of each of G0 and G1. -/
theorem witness_DegenerateMovesOnlyWriteTheFeedRate :
    let args : Slots := ⟨intArg .f 500#32, none, none⟩
    let args0 : Slots := ⟨intArg .x 5#32, intArg .f 0#32, none⟩
    k1.halted = false ∧ (∀ a, inI32 (exactTarget args k1 a) = true) ∧ distOf args k1 = 0 ∧
      (∀ a, inI32 (exactTarget args0 k1 a) = true) ∧ distOf args0 k1 ≠ 0 ∧ g0Speed args0 k1 = 0#32 ∧
      feedAfter args0 k1 = 0#32 := by
  refine ⟨by decide, ?_, by decide, ?_, by decide, by decide, by decide⟩ <;> intro a <;> cases a <;> decide

/-- Witness of MovesWithABadAxisHalt: a target one past i32 on Y, and a speed of 0 on X for G0 and for G1. -/
theorem witness_MovesWithABadAxisHalt :
    (let s : State := { k1 with homeOffset := ⟨0#32, 1#32, 0#32⟩ }
     let args : Slots := ⟨intArg .y 0x7FFFFFFF#32, none, none⟩
     s.halted = false ∧ inI32 (exactTarget args s .y) = false ∧ inI32 (exactTarget args s .x) = true) ∧
    (let args : Slots := ⟨intArg .x 1#32, intArg .y 10#32, intArg .f 1#32⟩
     (∀ b, inI32 (exactTarget args k1 b) = true) ∧ distOf args k1 ≠ 0 ∧ disp args k1 .x ≠ 0 ∧
      g0Speed args k1 ≠ 0#32 ∧ spd (g0Speed args k1) args k1 .x = 0 ∧ feedAfter args k1 ≠ 0#32 ∧
      spd (feedAfter args k1) args k1 .x = 0 ∧ ∀ b, ¬ before b .x) := by
  refine ⟨by decide, ?_, by decide, by decide, by decide, by decide, by decide, by decide, ?_⟩
  · intro b; cases b <;> decide
  · intro b; unfold before; cases b <;> decide

/-- Witness of CommandsWriteOnlyTheirState: a command that runs. -/
theorem witness_CommandsWriteOnlyTheirState :
    isCommand .g91 ∧ k1.halted = false ∧ ∃ t, exec .g91 k1 = .next t ∧ t.halted = false ∧ t.mode ≠ k1.mode :=
  ⟨⟨.g91, rfl⟩, rfl, _, rfl, rfl, by decide⟩

/-- Witness of SlowOperationsLeaveTheRest: an ENQUEUE that decodes a move, with the pulse low. -/
theorem witness_SlowOperationsLeaveTheRest :
    (∃ t, exec (.enqueue cmdX4) k1 = .next t ∧ t.halted = false) ∧ (k1.axis .x).pulseHigh = false := ⟨⟨_, rfl, rfl⟩, rfl⟩

/-- Witness of EveryStepKeepsTheInvariant: a step that raises a pulse. -/
theorem witness_EveryStepKeepsTheInvariant :
    (withX primedX [cmdX4]).Inv ∧
    ∃ t, step { withX primedX [cmdX4] with inbox := [.request 0x00000000000000290000000000000001#128 none] } = .next t ∧
      t.stepOut .x = true :=
  ⟨inv_withX inv_primedX (by decide) (by decide), _, rfl, rfl⟩

/-- Witness of ReachableStepsAreSafe: a state past reset and one step. -/
theorem witness_ReachableStepsAreSafe : Reachable k1 ∧
    ∃ t, Reachable t ∧ t.queue = [cmdX4] :=
  ⟨.reset _ (by decide), _,
   .step { k1 with inbox := [.request 4#128 (some cmdX4)] } _ (.offer _ _ (.reset _ (by decide))) rfl, rfl⟩

end Sys2Proof.Tests
end

section
/-! PROOF. The values after reset (10_state.md R36) and the read-only status view (10_state.md R32 to R35). -/

namespace Sys2Proof.Machine

open Sys2Proof

/-! ### The reset input -/

/-- A legal configuration's table has the length it announces (00_scope.md R7). -/
theorem length_configTable_of_legal {c : Config} (h : legalConfig c = true) : (configTable c).length = c.rampLen := by
  simp only [legalConfig, Bool.and_eq_true, beq_iff_eq] at h
  obtain ⟨⟨⟨⟨⟨⟨-, hlen⟩, -⟩, -⟩, -⟩, -⟩, -⟩ := h
  exact hlen

theorem configTable_of_built {c : Config} {t0 : Word} (h : c.ramp = .built t0) :
    configTable c = buildTable t0 c.rampLen := by simp [configTable, h]

theorem configTable_of_supplied {c : Config} {entries : List Word} (h : c.ramp = .supplied entries) :
    configTable c = entries := by simp [configTable, h]

theorem step_of_legal_reset {s : State} {c : Config} {rest : List HostInput} (hin : s.inbox = .reset c :: rest)
    (hc : legalConfig c = true) : step s = .next ((State.ofConfig c).takeInput rest) := by
  simp [step, hin, resetInput, hc, State.takeInput]

@[simp] theorem State.axis_ofConfig (c : Config) (a : Axis) : (State.ofConfig c).axis a = AxisUnit.reset := by
  cases a <;> rfl

@[simp] theorem State.homeOffset_ofConfig (c : Config) (a : Axis) : (State.ofConfig c).homeOffset.get a = 0#32 := by
  cases a <;> rfl

/-! ### Words by place value -/

/-- The high part of a concatenation weighs two to the width of the low part. -/
theorem toNat_append_eq_add {m n : Nat} (hi : BitVec m) (lo : BitVec n) :
    (hi ++ lo).toNat = hi.toNat * 2 ^ n + lo.toNat := by
  rw [BitVec.toNat_append, ← Nat.shiftLeft_add_eq_or_of_lt lo.isLt, Nat.shiftLeft_eq]

/-! ### STATUS, field by field (10_state.md R34) -/

theorem Mode.bit_eq (m : Mode) : m.bit = decide (m = .relative) := by cases m <;> rfl

section StatusFields
variable (s : State)

theorem statusReg_halted : (statusReg s).toNat % 2 = s.halted.toNat := by
  have hbit := Bool.toNat_lt s.halted
  rw [statusReg, toNat_append_eq_add, BitVec.toNat_ofBool]
  omega

theorem statusReg_queueLength : (statusReg s).toNat / 2 % 4 = s.queue.length % 4 := by
  have hbit := Bool.toNat_lt s.halted
  rw [statusReg, toNat_append_eq_add, toNat_append_eq_add, BitVec.toNat_ofBool, BitVec.toNat_ofNat]
  omega

theorem statusReg_mode : (statusReg s).getLsbD 3 = decide (s.mode = .relative) := by
  simp only [statusReg, BitVec.getLsbD_append]
  simp [Mode.bit_eq]

theorem statusReg_onTarget (a : Axis) : (statusReg s).getLsbD (4 + (axisCode (some a)).toNat) = s.onTarget a := by
  simp only [statusReg, BitVec.getLsbD_append]
  cases a <;> simp [axisCode]

theorem statusReg_pulseHigh (a : Axis) :
    (statusReg s).getLsbD (7 + (axisCode (some a)).toNat) = (s.axis a).pulseHigh := by
  simp only [statusReg, BitVec.getLsbD_append]
  cases a <;> simp [axisCode, State.stepOut]

theorem statusReg_dirLevel (a : Axis) :
    (statusReg s).getLsbD (10 + (axisCode (some a)).toNat) = (s.axis a).dirLevel := by
  simp only [statusReg, BitVec.getLsbD_append]
  cases a <;> simp [axisCode, State.dirOut]

theorem statusReg_rrSlot : (statusReg s).extractLsb' 13 2 = s.rrSlot := by
  simp (disch := omega) only [statusReg, BitVec.extractLsb'_append_eq_of_le, BitVec.extractLsb'_append_eq_of_add_le,
    BitVec.extractLsb'_eq_self, Nat.reduceSub, Nat.sub_self]

/-- Bits 31 to 15 read 0. -/
theorem statusReg_lt : (statusReg s).toNat < 2 ^ 15 := by
  have hhigh : (statusReg s).extractLsb' 15 17 = 0#17 := by
    simp (disch := omega) only [statusReg, BitVec.extractLsb'_append_eq_of_le, BitVec.extractLsb'_eq_self,
      Nat.reduceSub, Nat.sub_self]
  have hzero : (statusReg s).toNat / 2 ^ 15 % 2 ^ 17 = 0 := by
    simpa [Nat.shiftRight_eq_div_pow] using congrArg BitVec.toNat hhigh
  omega

end StatusFields

/-! ### FAULT (10_state.md R35) -/

theorem faultReg_toNat (s : State) :
    (faultReg s).toNat = (axisCode s.faultAxis).toNat * 16 + s.faultCause.code.toNat := by
  simp only [faultReg, toNat_append_eq_add, BitVec.toNat_zero]
  omega

theorem faultId_toNat (cause : FaultCause) (axis : Option Axis) :
    (faultId cause axis).toNat = (axisCode axis).toNat * 16 + cause.code.toNat := by
  simp only [faultId, toNat_append_eq_add, BitVec.toNat_zero]
  omega

theorem State.onTarget_iff (s : State) (a : Axis) :
    s.onTarget a = true ↔ (s.axis a).position = (s.axis a).target ∧ (s.axis a).nextEventTime = 0#64 := by
  simp [State.onTarget, AxisUnit.onTarget]

/-! ### The register map (10_state.md R33) -/

section RegisterMap
variable (s : State)

theorem statusView_homeOffset (a : Axis) :
    statusView s (8#8 + (axisCode (some a)).zeroExtend 8) = s.homeOffset.get a := by cases a <;> rfl

theorem statusView_resolution (a : Axis) :
    statusView s (11#8 + (axisCode (some a)).zeroExtend 8) = s.resolution.get a := by cases a <;> rfl

/-- Eight registers per axis from 16 on, in the order of the axis codes. -/
theorem statusView_axisReg (a : Axis) {k : Nat} (hk : k < 8) :
    statusView s (16#8 + 8#8 * (axisCode (some a)).zeroExtend 8 + BitVec.ofNat 8 k) = axisReg (s.axis a) k := by
  cases a <;> interval_cases k <;> rfl

theorem statusView_of_forty_le {reg : BitVec 8} (h : 40 ≤ reg.toNat) : statusView s reg = 0#32 := by
  unfold statusView
  simp (disch := omega) only [if_neg]

end RegisterMap

theorem Direction.toInt_ofInt (d : Direction) : (BitVec.ofInt 32 d.toInt).toInt = d.toInt := by cases d <;> rfl

/-- Registers 7 and 6 of an axis are the two halves of its scheduled time. -/
theorem axisReg_time (u : AxisUnit) : axisReg u 7 ++ axisReg u 6 = u.nextEventTime := by
  calc axisReg u 7 ++ axisReg u 6
      = u.nextEventTime.extractLsb' 0 64 := BitVec.extractLsb'_append_extractLsb'_eq_extractLsb' rfl
    _ = u.nextEventTime := BitVec.extractLsb'_eq_self

end Sys2Proof.Machine

namespace Sys2Proof.Proofs

open Sys2Proof Sys2Proof.Machine

/-- Settles O38: each field of STATUS by its position, then FAULT and the codes. -/
theorem statusAndFaultRegisterFields : Obligations.StatusAndFaultRegisterFields := by
  intro s hqueue
  have hlength : (statusReg s).toNat / 2 % 4 = s.queue.length :=
    (statusReg_queueLength s).trans (Nat.mod_eq_of_lt (by omega))
  have hid : (faultId s.faultCause s.faultAxis).toNat = (faultReg s).toNat :=
    (faultId_toNat _ _).trans (faultReg_toNat s).symm
  exact ⟨statusReg_halted s, hlength, statusReg_mode s, statusReg_onTarget s .x, statusReg_onTarget s .y,
    statusReg_onTarget s .z, statusReg_pulseHigh s .x, statusReg_pulseHigh s .y, statusReg_pulseHigh s .z,
    statusReg_dirLevel s .x, statusReg_dirLevel s .y, statusReg_dirLevel s .z, statusReg_rrSlot s, statusReg_lt s,
    fun a => ⟨rfl, rfl, s.onTarget_iff a⟩, s.allOnTarget_iff, faultReg_toNat s, hid,
    rfl, rfl, rfl, rfl, rfl, rfl, rfl, rfl, rfl, rfl⟩

/-- Settles O10: the reset input leaves `State.ofConfig` of its configuration (10_state.md R36). -/
theorem resetInputLeavesTheResetValues : Obligations.ResetInputLeavesTheResetValues := by
  intro s c rest hin hc
  have haxis : ∀ a, ((State.ofConfig c).takeInput rest).axis a = AxisUnit.reset := fun a => by simp
  have hlevels : ∀ a, ((State.ofConfig c).takeInput rest).onTarget a = true ∧
      ((State.ofConfig c).takeInput rest).stepOut a = false ∧ ((State.ofConfig c).takeInput rest).dirOut a = false := by
    intro a
    simp only [State.onTarget_iff, State.stepOut, State.dirOut, haxis a, AxisUnit.reset, and_self]
  have hlen := length_configTable_of_legal hc
  exact ⟨_, step_of_legal_reset hin hc, rfl, fun _ => configTable_of_built, fun _ => configTable_of_supplied, hlen, hlen,
    rfl, rfl, rfl, rfl, rfl, haxis, rfl, rfl, State.homeOffset_ofConfig c, rfl, rfl, rfl, rfl, hlevels, rfl⟩

/-- Settles O37: the registers of the block by number, those of an axis by their offset. -/
theorem statusViewIsTheRegisterMap : Obligations.StatusViewIsTheRegisterMap := by
  intro s
  refine ⟨rfl, rfl, rfl, rfl, rfl, rfl, rfl, rfl, rfl, fun a => ⟨statusView_homeOffset s a, statusView_resolution s a⟩,
    rfl, rfl, fun a => ?_, fun _ => statusView_of_forty_le s⟩
  have hreg {k : Nat} (hk : k < 8) := statusView_axisReg s a hk
  have hposition : statusView s (16#8 + 8#8 * (axisCode (some a)).zeroExtend 8) = (s.axis a).position :=
    (congrArg (statusView s) (BitVec.add_zero _).symm).trans (hreg (k := 0) (by decide))
  refine ⟨hposition, hreg (k := 1) (by decide), ?_, hreg (k := 3) (by decide), hreg (k := 4) (by decide),
    hreg (k := 5) (by decide), ?_⟩
  · exact (congrArg BitVec.toInt (hreg (k := 2) (by decide))).trans (Direction.toInt_ofInt _)
  · exact (congrArg₂ (· ++ ·) (hreg (k := 7) (by decide)) (hreg (k := 6) (by decide))).trans (axisReg_time _)

end Sys2Proof.Proofs
end

section
/-! PROOF. The decode map over the masked header (30_encoding.md R87) and the requests with a reserved OP (30_encoding.md R73,
44_machine_ops.md R179). -/

namespace Sys2Proof

/-! ### The masked header -/

/-- A header determines the fields it is built of. -/
theorem headerWord_inj {mnem mnem' : BitVec 2} {major minor major' minor' : BitVec 16} :
    headerWord mnem major minor = headerWord mnem' major' minor' ↔ mnem = mnem' ∧ major = major' ∧ minor = minor' := by
  constructor
  · intro h
    have hmnem := congrArg headerMnem h
    have hmajor := congrArg headerMajor h
    have hminor := congrArg headerMinor h
    simp only [headerMnem_headerWord, headerMajor_headerWord, headerMinor_headerWord] at hmnem hmajor hminor
    exact ⟨hmnem, hmajor, hminor⟩
  · rintro ⟨rfl, rfl, rfl⟩
    rfl

/-- Bits 1 to 0 of a header are its mnemonic (30_encoding.md R81). -/
theorem header_and_three (h : Header) : h &&& 0x0000000000000003#64 = headerWord (headerMnem h) 0#16 0#16 := by
  apply BitVec.eq_of_getLsbD_eq
  intro i hi
  simp only [headerWord, headerMnem, BitVec.getLsbD_append, BitVec.getLsbD_and, BitVec.getLsbD_extractLsb',
    BitVec.getLsbD_zero]
  interval_cases i <;> simp

/-! ### The decode map by mnemonic and by row -/

section Rows
variable {c : Bundle}

theorem decodeCmd_of_mnemG (h : headerMnem (cmdHeader c) = 0#2) :
    decodeCmd c = decodeG (headerMajor (cmdHeader c)) (headerMinor (cmdHeader c)) (decodeSlots c) := by
  simp [decodeCmd, h]

theorem decodeCmd_of_mnemM (h : headerMnem (cmdHeader c) = 1#2) :
    decodeCmd c = decodeM (headerMajor (cmdHeader c)) (headerMinor (cmdHeader c)) := by
  simp [decodeCmd, h]

theorem decodeCmd_of_mnemN (h : headerMnem (cmdHeader c) = 2#2) :
    decodeCmd c = .nUnrecognized (headerMajor (cmdHeader c)) (headerMinor (cmdHeader c)) := by
  simp [decodeCmd, h]

theorem decodeCmd_of_mnemUnknown (h : headerMnem (cmdHeader c) = 3#2) :
    decodeCmd c = .unknownUnrecognized (headerMajor (cmdHeader c)) (headerMinor (cmdHeader c)) := by
  simp [decodeCmd, h]

end Rows

/-- The mnemonics of 30_encoding.md R82: G, M, N and Unknown. -/
theorem mnem_cases : ∀ m : BitVec 2, m = 0#2 ∨ m = 1#2 ∨ m = 2#2 ∨ m = 3#2 := by decide

theorem decodeG_of_minor_ne {major minor : BitVec 16} (args : Slots) (h : minor ≠ 0#16) :
    decodeG major minor args = .gUnrecognized major minor := if_neg h

/-- Rows 1 to 7 and 10 with MINOR = 0, tested one after the other. -/
theorem decodeG_minor_zero (major : BitVec 16) (args : Slots) :
    decodeG major 0#16 args =
      if major = 0#16 then .g0 args
      else if major = 1#16 then .g1 args
      else if major = 20#16 then .g20
      else if major = 21#16 then .g21
      else if major = 90#16 then .g90
      else if major = 91#16 then .g91
      else if major = 92#16 then .g92 args
      else .gUnrecognized major 0#16 := by
  simp only [decodeG, if_true, BitVec.toNat_eq, BitVec.toNat_ofNat, Nat.reducePow, Nat.reduceMod]
  split <;> simp_all

/-! ### The reserved OPs of a request (30_encoding.md R73) -/

theorem reqOp_toNat (r : ReqWord) : (reqOp r).toNat = r.toNat % 16 := by
  simp [reqOp]

section ReservedOp
variable {r : ReqWord} (cmd : Option Bundle)

theorem decodeReq_of_op_zero (h : r.toNat % 16 = 0) : decodeReq r cmd = .ok .reservedOp0 := by
  simp only [decodeReq, reqOp_toNat, h]

theorem decodeReq_of_op_seven (h : r.toNat % 16 = 7) : decodeReq r cmd = .ok .reservedOp7 := by
  simp only [decodeReq, reqOp_toNat, h]

theorem decodeReq_of_op_high (h : 8 ≤ r.toNat % 16) : decodeReq r cmd = .ok (.reservedOpHigh (r.extractLsb' 0 3)) := by
  obtain ⟨k, hk⟩ : ∃ k, r.toNat % 16 = k + 8 := ⟨r.toNat % 16 - 8, by omega⟩
  unfold decodeReq
  rw [reqOp_toNat, hk]
  rfl

end ReservedOp

end Sys2Proof

namespace Sys2Proof.Machine

open Sys2Proof Sys2Proof.Claims

/-! ### A request with a reserved OP -/

/-- A reserved OP decodes, whatever stands beside it, to an instruction that raises ILLEGAL_OP (44_machine_ops.md R179). -/
theorem exists_decodeReq_of_reserved {r : ReqWord} (cmd : Option Bundle)
    (h : r.toNat % 16 = 0 ∨ 7 ≤ r.toNat % 16) :
    ∃ i, decodeReq r cmd = .ok i ∧ ∀ s, exec i s = runRequest reservedBody s := by
  obtain hzero | hseven | hhigh : r.toNat % 16 = 0 ∨ r.toNat % 16 = 7 ∨ 8 ≤ r.toNat % 16 := by omega
  · exact ⟨_, decodeReq_of_op_zero cmd hzero, fun _ => rfl⟩
  · exact ⟨_, decodeReq_of_op_seven cmd hseven, fun _ => rfl⟩
  · exact ⟨_, decodeReq_of_op_high cmd hhigh, fun _ => rfl⟩

/-- What a reserved OP does: no change while halted, else the fault (44_machine_ops.md R179, R181). -/
theorem runRequest_reservedBody (s : State) :
    runRequest reservedBody s =
      .next (if s.halted then s.begin.respond .halted false 0#32 else faulted s .illegalOp none) := by
  cases hs : s.halted with
  | true => exact runRequest_of_halted hs _
  | false => exact runRequest_of_running hs _

theorem step_of_request {s : State} {r : ReqWord} {cmd : Option Bundle} {rest : List HostInput} {i : Instr}
    (hin : s.inbox = .request r cmd :: rest) (hdec : decodeReq r cmd = .ok i) :
    step s = exec i (s.takeInput rest) := by
  simp [step, hin, fetchInstr, hdec]

end Sys2Proof.Machine

namespace Sys2Proof.Proofs

open Sys2Proof Sys2Proof.Machine Sys2Proof.Claims

/-- Settles O3: masking a header keeps its fields, and on each mnemonic the decode map tests the rows in order. -/
theorem commandDecodeFollowsMaskedHeader : Obligations.CommandDecodeFollowsMaskedHeader := by
  intro c
  -- The constants of the table, by their fields (30_encoding.md R81).
  have hg0 : 0x0000000000000000#64 = headerWord 0#2 0#16 0#16 := rfl
  have hg1 : 0x0000000000010000#64 = headerWord 0#2 1#16 0#16 := rfl
  have hg20 : 0x0000000000140000#64 = headerWord 0#2 20#16 0#16 := rfl
  have hg21 : 0x0000000000150000#64 = headerWord 0#2 21#16 0#16 := rfl
  have hg90 : 0x00000000005A0000#64 = headerWord 0#2 90#16 0#16 := rfl
  have hg91 : 0x00000000005B0000#64 = headerWord 0#2 91#16 0#16 := rfl
  have hg92 : 0x00000000005C0000#64 = headerWord 0#2 92#16 0#16 := rfl
  have hm30 : 0x00000000001E0001#64 = headerWord 1#2 30#16 0#16 := rfl
  have hm : 0x0000000000000001#64 = headerWord 1#2 0#16 0#16 := rfl
  have hn : 0x0000000000000002#64 = headerWord 2#2 0#16 0#16 := rfl
  simp only [header_and_mask, header_and_three, hg0, hg1, hg20, hg21, hg90, hg91, hg92, hm30, hm, hn, headerWord_inj]
  rcases mnem_cases (headerMnem (cmdHeader c)) with hmnem | hmnem | hmnem | hmnem
  · rw [decodeCmd_of_mnemG hmnem]
    by_cases hminor : headerMinor (cmdHeader c) = 0#16
    · simp [hmnem, hminor, decodeG_minor_zero]
    · simp [hmnem, hminor, decodeG_of_minor_ne]
  · rw [decodeCmd_of_mnemM hmnem]
    simp [hmnem, decodeM]
  · rw [decodeCmd_of_mnemN hmnem]
    simp [hmnem]
  · rw [decodeCmd_of_mnemUnknown hmnem]
    simp [hmnem]

/-- Settles O39: every reserved OP is the request that raises ILLEGAL_OP. -/
theorem reservedOpsHaltTheBlock : Obligations.ReservedOpsHaltTheBlock := by
  constructor
  · intro s hs
    have hfault : runRequest reservedBody s = .next (faulted s .illegalOp none) := by
      simp [runRequest_reservedBody, hs]
    exact ⟨hfault, hfault, fun _ => hfault⟩
  · intro s r cmd rest hin hop
    obtain ⟨i, hdec, hexec⟩ := exists_decodeReq_of_reserved cmd hop
    rw [step_of_request hin hdec, hexec, runRequest_reservedBody]
    rfl

end Sys2Proof.Proofs
end

section
/-! PROOF. The default ramp table (40_ramp_table.md R101, R103): its length, its first entry and its recurrence. -/

namespace Sys2Proof.Machine

open Sys2Proof

/-- The factor (4n − 1)/(4n + 1) never raises a delay (40_ramp_table.md R101, its second corner case). -/
theorem accDelay_le (prev n : Nat) : accDelay prev n ≤ prev := by
  refine Nat.div_le_of_le_mul ?_
  calc prev * (4 * n - 1) ≤ prev * (4 * n + 1) := Nat.mul_le_mul_left prev (by omega)
    _ = (4 * n + 1) * prev := Nat.mul_comm ..

@[simp] theorem length_buildFrom (t i count : Nat) : (buildFrom t i count).length = count := by
  induction count generalizing t i with
  | zero => rfl
  | succ count ih => simp [buildFrom, ih]

@[simp] theorem length_buildTable (t0 : Word) (n : Nat) : (buildTable t0 n).length = n := length_buildFrom ..

/-- A first delay that is a u32 stands in the table unwrapped. -/
theorem toNat_getD_buildFrom_zero {t count : Nat} (i : Nat) (ht : t < 2 ^ 32) (hcount : 0 < count) :
    ((buildFrom t i count).getD 0 0#32).toNat = t := by
  cases count with
  | zero => contradiction
  | succ count => simpa [buildFrom] using Nat.mod_eq_of_lt ht

/-- Each entry is `AccDelay` of the one before it: no entry wraps, since `AccDelay` never rises above a u32 delay. -/
theorem toNat_getD_buildFrom_succ {t i k count : Nat} (ht : t < 2 ^ 32) (hk : k + 1 < count) :
    ((buildFrom t i count).getD (k + 1) 0#32).toNat =
      accDelay ((buildFrom t i count).getD k 0#32).toNat (i + k) := by
  induction count generalizing t i k with
  | zero => contradiction
  | succ count ih =>
    have hnext : accDelay t i < 2 ^ 32 := (accDelay_le t i).trans_lt ht
    have htail : k < count := Nat.lt_of_succ_lt_succ hk
    cases k with
    | zero =>
      rw [toNat_getD_buildFrom_zero i ht (Nat.succ_pos count), buildFrom, List.getD_cons_succ,
        toNat_getD_buildFrom_zero (i + 1) hnext htail, Nat.add_zero]
    | succ k =>
      rw [buildFrom, List.getD_cons_succ, List.getD_cons_succ, ih hnext htail, Nat.add_assoc i 1 k, Nat.add_comm 1 k]

theorem getD_buildTable_zero (t0 : Word) {n : Nat} (hn : 0 < n) : (buildTable t0 n).getD 0 0#32 = t0 :=
  BitVec.eq_of_toNat_eq (toNat_getD_buildFrom_zero 1 t0.isLt hn)

theorem toNat_getD_buildTable_succ (t0 : Word) {n k : Nat} (hk : k + 1 < n) :
    ((buildTable t0 n).getD (k + 1) 0#32).toNat = accDelay ((buildTable t0 n).getD k 0#32).toNat (k + 1) := by
  rw [buildTable, toNat_getD_buildFrom_succ t0.isLt hk, Nat.add_comm 1 k]

end Sys2Proof.Machine

namespace Sys2Proof.Proofs

open Sys2Proof Sys2Proof.Machine

/-- Settles O13: the model's recurrence is `AccDelay`, stated from each entry to the next. -/
theorem buildTableFollowsTheRecurrence : Obligations.BuildTableFollowsTheRecurrence := by
  intro t0 n hn
  refine ⟨length_buildTable t0 n, getD_buildTable_zero t0 hn, ?_⟩
  intro i hi hin
  obtain ⟨k, rfl⟩ := Nat.exists_eq_add_of_le' hi
  exact toNat_getD_buildTable_succ t0 hin

end Sys2Proof.Proofs
end

section
/-! PROOF. The ramp's two rules on one table and one unit: `FloorIndex` (41_axis_ramp.md R111) and the policies of `RampNext`
(41_axis_ramp.md R112 to R117). -/

namespace Sys2Proof.Machine

open Sys2Proof

/-! ### FloorIndex -/

/-- `FloorIndex(x)` is the first entry at most x, or the last index where every entry is above x (41_axis_ramp.md R111). -/
theorem floorIndex_cases (table : List Word) (x : Word) :
    (floorIndex table x < table.length ∧ (table.getD (floorIndex table x) 0#32).toNat ≤ x.toNat ∧
      ∀ j < floorIndex table x, x.toNat < (table.getD j 0#32).toNat) ∨
    (floorIndex table x = table.length - 1 ∧ ∀ j < table.length, x.toNat < (table.getD j 0#32).toNat) := by
  unfold floorIndex
  cases hfind : table.findIdx? (fun t => decide (t.toNat ≤ x.toNat)) with
  | some i =>
    obtain ⟨hi, hle, hbefore⟩ := List.findIdx?_eq_some_iff_getElem.mp hfind
    refine .inl ⟨hi, ?_, fun j (hj : j < i) => ?_⟩
    · simpa [hi] using hle
    · simpa [hj.trans hi] using hbefore j hj
  | none =>
    refine .inr ⟨rfl, fun j hj => ?_⟩
    simpa [hj] using List.findIdx?_eq_none_iff.mp hfind _ (List.getElem_mem hj)

/-! ### The policies of RampNext -/

/-- The deceleration test compares the distance left as an integer, so nothing wraps (41_axis_ramp.md R115). -/
theorem AxisUnit.mustDecelerate_iff (u : AxisUnit) :
    u.mustDecelerate = true ↔
      |u.target.toInt - u.position.toInt| ≤ (u.accIndex : Int) - (u.accIndexFloor : Int) - 1 := by
  rw [AxisUnit.mustDecelerate, decide_eq_true_iff, AxisUnit.remaining, Int.natCast_natAbs, AxisUnit.displacement]

/-- Deceleration begins above the floor only (41_axis_ramp.md R115). -/
theorem AxisUnit.accIndexFloor_lt_of_mustDecelerate {u : AxisUnit} (h : u.mustDecelerate = true) :
    u.accIndexFloor < u.accIndex := by
  have hdistance := abs_nonneg (u.target.toInt - u.position.toInt)
  have htest := u.mustDecelerate_iff.mp h
  omega

end Sys2Proof.Machine

namespace Sys2Proof.Proofs

open Sys2Proof Sys2Proof.Machine

/-- Settles O15: both cases of `floorIndex_cases`, each of which shuts the other's hypothesis out. -/
theorem floorIndexIsTheFirstSmallEnough : Obligations.FloorIndexIsTheFirstSmallEnough := by
  intro table x hne
  have hlen := List.length_pos_iff.mpr hne
  rcases floorIndex_cases table x with ⟨hlt, hle, hbefore⟩ | ⟨hlast, habove⟩
  · exact ⟨hlt, hbefore, fun _ => hle, fun habove => absurd hle (habove _ hlt).not_ge⟩
  · refine ⟨by omega, fun j hj => habove j (by omega), ?_, fun _ => hlast⟩
    rintro ⟨j, hj, hle⟩
    exact absurd hle (habove j hj).not_ge

/-- Settles O16: `rampNext_of_valid` gives a step, and each case of `rampNext_cases` is one policy. -/
theorem rampNextFollowsThePolicies : Obligations.RampNextFollowsThePolicies := by
  refine ⟨fun s a u => ⟨rfl, State.axis_setAxis_same s a u, fun b => State.axis_setAxis_of_ne s a b u⟩, ?_⟩
  intro s a hinv
  refine ⟨rampNext_of_onTarget, fun hoff => ?_⟩
  have hindex := hinv.accIndex_lt
  obtain ⟨hposition, -, -⟩ := advance_of_points hoff (hinv.direction_points hoff)
  obtain ⟨_, _, -, hstep⟩ := rampNext_of_valid hoff hindex
  obtain ⟨hon, -⟩ | ⟨-, d, k, hd, hunit, hpolicy⟩ := rampNext_cases hstep
  · exact absurd hon hoff
  rw [hd, hunit] at hstep
  refine ⟨d, (s.axis a).advance.position, k, hstep, hposition, ?_⟩
  have htest : (s.axis a).advance.mustDecelerate = true ↔
      |(s.axis a).target.toInt - (s.axis a).advance.position.toInt| ≤
        ((s.axis a).accIndex : Int) - (s.axis a).accIndexFloor - 1 := AxisUnit.mustDecelerate_iff _
  have hentry {e : Word} (he : s.table[(s.axis a).accIndex]? = some e) : s.table.getD (s.axis a).accIndex 0#32 = e := by
    rw [List.getD_eq_getElem?_getD, he, Option.getD_some]
  simp only [← htest]
  obtain ⟨hdec, hk, hread⟩ | ⟨hdec, hk, hcruise, e, hread, hle⟩ | ⟨hdec, hk, hread, hlt⟩ := hpolicy
  case inl =>
    have hfloor : (s.axis a).accIndexFloor < (s.axis a).accIndex :=
      AxisUnit.accIndexFloor_lt_of_mustDecelerate (u := (s.axis a).advance) hdec
    rw [if_pos hdec]
    exact ⟨by omega, hk, hread, by omega⟩
  case inr.inl =>
    rw [if_neg (Bool.eq_false_iff.mp hdec), hentry hread, if_pos (hcruise ▸ hle)]
    exact ⟨by omega, hk, hcruise⟩
  case inr.inr =>
    rw [if_neg (Bool.eq_false_iff.mp hdec), hentry hread, if_neg hlt.not_ge]
    exact ⟨by omega, hk, hread⟩

end Sys2Proof.Proofs
end

section
/-! PROOF. A scheduled time at or past the end of time (42_pulse_scheduler.md R134): each event that would store one raises
TIME_OVERFLOW, and the fault discards every write of the operation, TICK's slot advance with them (60_exceptions.md R243). -/

namespace Sys2Proof.Machine

open Sys2Proof Sys2Proof.Claims

/-! ### What an event reads -/

/-- The delay `RampNext` finds depends on the table and on the unit, whatever its step pin shows (41_axis_ramp.md R113). -/
theorem rampNext_delay_of_agree {a : Axis} {s s' t : State} {r : Option Word} {pulse : Bool} (h : rampNext a s = .ok (r, t))
    (hunit : s'.axis a = { s.axis a with pulseHigh := pulse }) (htable : s'.table = s.table) :
    ∃ t', rampNext a s' = .ok (r, t') := by
  have hadvance : (s'.axis a).advance = { (s.axis a).advance with pulseHigh := pulse } := by rw [hunit]; rfl
  have htest : (s'.axis a).advance.mustDecelerate = (s.axis a).advance.mustDecelerate := by rw [hadvance]; rfl
  obtain ⟨hon, rfl, -⟩ | ⟨hoff, d, k, rfl, -, hpolicy⟩ := rampNext_cases h
  · exact ⟨s', rampNext_of_onTarget (by rw [hunit]; exact hon)⟩
  have hoff' : (s'.axis a).position ≠ (s'.axis a).target := by rw [hunit]; exact hoff
  have hindex : (s'.axis a).advance.accIndex = (s.axis a).accIndex := by rw [hunit]; rfl
  have hcruiseDelay : (s'.axis a).advance.cruiseDelay = (s.axis a).cruiseDelay := by rw [hunit]; rfl
  have hread {i : Nat} {e : Word} (he : s.table[i]? = some e) : tableRead i s' = .ok e := by
    rw [tableRead_eq_ok, htable, he]
  simp only [rampNext, if_neg hoff', htest, hindex, hcruiseDelay]
  obtain ⟨hdec, rfl, he⟩ | ⟨hdec, -, rfl, e, he, hle⟩ | ⟨hdec, -, he, hlt⟩ := hpolicy
  case inl => simp [hdec, hread he]
  case inr.inl => simp [hdec, hread he, hle]
  case inr.inr => simp [hdec, hread he, hlt.not_ge]

/-- A sum that the poll of `a` at `now` would store lies past the end of time: the priming's (43_axis.md R152), a rise's or
a fall's (42_pulse_scheduler.md R130, R131). -/
def PastTheEnd (a : Axis) (now : Time) (s : State) : Prop :=
  ((s.axis a).nextEventTime = 0#64 ∧ ∃ d t, rampNext a s = .ok (some d, t) ∧ 2 ^ 64 ≤ now.toNat + d.toNat) ∨
  ((s.axis a).nextEventTime ≠ 0#64 ∧ (s.axis a).nextEventTime.toNat ≤ now.toNat ∧ (s.axis a).pulseHigh = false ∧
    2 ^ 64 ≤ now.toNat + s.signalLength.toNat) ∨
  ((s.axis a).nextEventTime ≠ 0#64 ∧ (s.axis a).nextEventTime.toNat ≤ now.toNat ∧ (s.axis a).pulseHigh = true ∧
    ∃ d t, rampNext a s = .ok (some d, t) ∧ 2 ^ 64 ≤ now.toNat + lowInterval d s.signalLength)

theorem PastTheEnd.of_agree {a : Axis} {now : Time} {s s' : State} (h : PastTheEnd a now s)
    (htable : s'.table = s.table) (hsignal : s'.signalLength = s.signalLength) (hunit : s'.axis a = s.axis a) :
    PastTheEnd a now s' := by
  have hramp {r : Option Word} {t : State} (hr : rampNext a s = .ok (r, t)) : ∃ t', rampNext a s' = .ok (r, t') :=
    rampNext_delay_of_agree (pulse := (s.axis a).pulseHigh) hr hunit htable
  rw [PastTheEnd, hunit, hsignal]
  obtain ⟨hidle, d, t, hr, hend⟩ | hrise | ⟨hnext, hdue, hhigh, d, t, hr, hend⟩ := h
  · exact .inl ⟨hidle, d, (hramp hr).imp fun _ hr' => ⟨hr', hend⟩⟩
  · exact .inr (.inl hrise)
  · exact .inr (.inr ⟨hnext, hdue, hhigh, d, (hramp hr).imp fun _ hr' => ⟨hr', hend⟩⟩)

/-! ### The events raise the fault -/

theorem schedule_of_past {a : Axis} {t : Nat} (s : State) (h : 2 ^ 64 ≤ t) :
    schedule a t s = .error (.raised .timeOverflow (some a)) :=
  ((schedule_cases a t s).resolve_left fun ⟨hlt, _⟩ => hlt.not_ge h).2

theorem prime_of_past {a : Axis} {now : Time} {d : Word} {s t : State} (hr : rampNext a s = .ok (some d, t))
    (h : 2 ^ 64 ≤ now.toNat + d.toNat) : prime a now s = .error (.raised .timeOverflow (some a)) := by
  rw [prime, hr]
  exact schedule_of_past t (h.trans (le_max_left ..))

theorem schedRise_of_past {a : Axis} {now : Time} {s : State} (h : 2 ^ 64 ≤ now.toNat + s.signalLength.toNat) :
    schedRise a now s = .error (.raised .timeOverflow (some a)) :=
  ((schedRise_cases a now s).resolve_left fun ⟨hlt, _⟩ => hlt.not_ge h).2

/-- The fall asks the ramp after it has lowered the pin, which changes no delay. -/
theorem schedFall_of_past {a : Axis} {now : Time} {d : Word} {s t : State} (hr : rampNext a s = .ok (some d, t))
    (h : 2 ^ 64 ≤ now.toNat + lowInterval d s.signalLength) :
    schedFall a now s = .error (.raised .timeOverflow (some a)) := by
  have hunit : ((s.setPulse a false).emit (.stepFall a)).axis a = { s.axis a with pulseHigh := false } := by
    simp [State.setPulse]
  obtain ⟨u, hu⟩ := rampNext_delay_of_agree hr hunit rfl
  rw [schedFall, hu]
  exact schedule_of_past u h

/-! ### The poll and the operations raise it -/

theorem State.onTarget_eq_false_of_scheduled {s : State} {a : Axis} (h : (s.axis a).nextEventTime ≠ 0#64) :
    s.onTarget a = false :=
  Bool.eq_false_iff.mpr fun hon => h (s.onTarget_iff a |>.mp hon).2

theorem State.onTarget_eq_false_of_rampNext {s t : State} {a : Axis} {d : Word}
    (h : rampNext a s = .ok (some d, t)) : s.onTarget a = false := by
  refine Bool.eq_false_iff.mpr fun hon => ?_
  rw [rampNext_of_onTarget (s.onTarget_iff a |>.mp hon).1] at h
  cases h

theorem axisPoll_of_pastTheEnd {a : Axis} {now : Time} {s : State} (h : PastTheEnd a now s) :
    axisPoll a now s = .error (.raised .timeOverflow (some a)) := by
  obtain ⟨hidle, d, t, hr, hend⟩ | ⟨hnext, hdue, hlow, hend⟩ | ⟨hnext, hdue, hhigh, d, t, hr, hend⟩ := h
  · simpa [axisPoll, State.onTarget_eq_false_of_rampNext hr, hidle] using prime_of_past hr hend
  · simpa [axisPoll, State.onTarget_eq_false_of_scheduled hnext, hnext, hdue.not_gt, hlow] using schedRise_of_past hend
  · simpa [axisPoll, State.onTarget_eq_false_of_scheduled hnext, hnext, hdue.not_gt, hhigh] using
      schedFall_of_past hr hend

theorem stepMonitorBody_of_pastTheEnd {a : Axis} {now : Time} {s : State} (hqueue : s.queue ≠ [])
    (h : PastTheEnd a now s) :
    stepMonitorBody (some a) now s = .error (.raised .timeOverflow (some a)) := by
  simp [stepMonitorBody, executing_iff.mpr hqueue, axisPoll_of_pastTheEnd h]

/-- A request whose body raises a fault keeps nothing the body wrote (60_exceptions.md R243). -/
theorem runRequest_of_raised {s : State} {body : State → Micro} {cause : FaultCause} {axis : Option Axis}
    (hs : s.halted = false) (h : body s.begin = .error (.raised cause axis)) :
    runRequest body s = .next (faulted s cause axis) := by
  rw [runRequest_of_running hs, h]
  rfl

theorem slotAxis_of_served {s : State} {axis : Option Axis} (h : served s axis) : slotAxis s.rrSlot = axis := by
  rw [slotAxis, ← h, axisOfCode_axisCode]

end Sys2Proof.Machine

namespace Sys2Proof.Proofs

open Sys2Proof Sys2Proof.Machine Sys2Proof.Claims

/-- Settles O23: the poll of both operations raises the fault, also behind TICK's slot advance, which the fault discards. -/
theorem scheduledTimePastTheEndHalts : Obligations.ScheduledTimePastTheEndHalts := by
  intro s a now hs hqueue (hpast : PastTheEnd a now s)
  constructor
  · have hbody : stepMonitorBody (some a) now s.begin = .error (.raised .timeOverflow (some a)) :=
      stepMonitorBody_of_pastTheEnd hqueue (hpast.of_agree rfl rfl rfl)
    exact runRequest_of_raised hs (by rw [stepMonitorOp, hbody, error_bind])
  · intro hserved
    have hslot : slotAxis s.begin.rrSlot = some a := slotAxis_of_served hserved
    have hbody : stepMonitorBody (some a) now (s.begin.setRrSlot (s.begin.rrSlot + 1#2)) =
        .error (.raised .timeOverflow (some a)) :=
      stepMonitorBody_of_pastTheEnd hqueue (hpast.of_agree rfl rfl rfl)
    exact runRequest_of_raised hs (by rw [tickBody, hslot, hbody, error_bind])

end Sys2Proof.Proofs
end

section
/-! PROOF. The answers of the interface operations (44_machine_ops.md R176 to R181): the instructions by how they run, then
the status, CONSUMED and DATA of each kind. -/

namespace Sys2Proof.Machine

open Sys2Proof Sys2Proof.Claims

/-! ### The instructions by how they run -/

/-- A request that only reads, and the value it answers with (44_machine_ops.md R176, R177). -/
inductive ReadRequest : Instr → (State → Word) → Prop
  | readReg (reg : BitVec 8) : ReadRequest (.readReg reg) (fun s => statusView s reg)
  | readTable (index : BitVec 16) : ReadRequest (.readTable index) (fun s => s.table.getD index.toNat 0#32)

/-- A request that writes the block, and what it does past its halted test (44_machine_ops.md R170 to R173, R179). -/
inductive WritingRequest : Instr → (State → Micro) → Prop
  | tick (now : Time) : WritingRequest (.tick now) (tickBody now)
  | stepMonitor (axis : Option Axis) (now : Time) : WritingRequest (.stepMonitor axis now) (stepMonitorOp axis now)
  | poll (offer : Option Bundle) : WritingRequest (.poll offer) (pollBody offer)
  | enqueue (c : Bundle) : WritingRequest (.enqueue c) (enqueueBody c)
  | reservedOp0 : WritingRequest .reservedOp0 reservedBody
  | reservedOp7 : WritingRequest .reservedOp7 reservedBody
  | reservedOpHigh (low : BitVec 3) : WritingRequest (.reservedOpHigh low) reservedBody

/-- Every instruction is a command, a read or a request that writes. -/
theorem instr_cases (i : Instr) :
    isCommand i ∨ (∃ value, ReadRequest i value) ∨ ∃ body, WritingRequest i body := by
  cases i with
  | tick now => exact .inr (.inr ⟨_, .tick now⟩)
  | stepMonitor axis now => exact .inr (.inr ⟨_, .stepMonitor axis now⟩)
  | poll offer => exact .inr (.inr ⟨_, .poll offer⟩)
  | enqueue c => exact .inr (.inr ⟨_, .enqueue c⟩)
  | readReg reg => exact .inr (.inl ⟨_, .readReg reg⟩)
  | readTable index => exact .inr (.inl ⟨_, .readTable index⟩)
  | reservedOp0 => exact .inr (.inr ⟨_, .reservedOp0⟩)
  | reservedOp7 => exact .inr (.inr ⟨_, .reservedOp7⟩)
  | reservedOpHigh low => exact .inr (.inr ⟨_, .reservedOpHigh low⟩)
  | g0 args => exact .inl ⟨.g0 args, rfl⟩
  | g1 args => exact .inl ⟨.g1 args, rfl⟩
  | g20 => exact .inl ⟨.g20, rfl⟩
  | g21 => exact .inl ⟨.g21, rfl⟩
  | g90 => exact .inl ⟨.g90, rfl⟩
  | g91 => exact .inl ⟨.g91, rfl⟩
  | g92 args => exact .inl ⟨.g92 args, rfl⟩
  | m30 => exact .inl ⟨.m30, rfl⟩
  | mOther major minor => exact .inl ⟨.mOther major minor, rfl⟩
  | gUnrecognized major minor => exact .inl ⟨.gUnrecognized major minor, rfl⟩
  | nUnrecognized major minor => exact .inl ⟨.nUnrecognized major minor, rfl⟩
  | unknownUnrecognized major minor => exact .inl ⟨.unknownUnrecognized major minor, rfl⟩

/-- A read answers while halted too and changes nothing else. -/
theorem ReadRequest.exec_eq {i : Instr} {value : State → Word} (h : ReadRequest i value) (s : State) :
    exec i s = .next (s.begin.respond (if s.halted then .halted else .done) false (value s)) := by
  cases h <;> rfl

theorem ReadRequest.eq_readReg_or_readTable {i : Instr} {value : State → Word} (h : ReadRequest i value) :
    (∃ reg, i = .readReg reg) ∨ ∃ index, i = .readTable index := by
  cases h with
  | readReg reg => exact .inl ⟨reg, rfl⟩
  | readTable index => exact .inr ⟨index, rfl⟩

theorem WritingRequest.exec_eq {i : Instr} {body : State → Micro} (h : WritingRequest i body) (s : State) :
    exec i s = runRequest body s := by
  cases h <;> rfl

theorem WritingRequest.not_readRequest {i : Instr} {body : State → Micro} {value : State → Word}
    (h : WritingRequest i body) : ¬ ReadRequest i value := by
  rintro (reg | index) <;> cases h

/-! ### No body writes the halted flag -/

theorem CommandWrites.halted {s t : State} (h : CommandWrites s t) : t.halted = s.halted := by
  obtain ⟨_, h⟩ := h
  rw [h]

theorem stepMonitorBody_halted {axis : Option Axis} {now : Time} {s t : State}
    (h : stepMonitorBody axis now s = .ok t) : t.halted = s.halted := by
  obtain rfl | ⟨a, -, -, hpoll⟩ := stepMonitorBody_cases h
  · rfl
  · obtain ⟨u, es, rfl, -⟩ := axisPoll_frame hpoll
    rfl

theorem pollIntake_halted {offer : Option Bundle} {s t : State} (h : pollIntake offer s = .ok t) :
    t.halted = s.halted := by
  obtain rfl | ⟨c, -, -, hintake⟩ := pollIntake_cases h
  · rfl
  · exact (intake_writes hintake).halted

theorem retire_halted {s t : State} (h : retire s = .ok t) : t.halted = s.halted := by
  obtain rfl | ⟨-, -, hwrites⟩ := retire_cases h
  · rfl
  · exact hwrites.halted

/-! ### What a request answers if it runs to its end -/

/-- REJECTED for an ENQUEUE refused by a full queue, else DONE (44_machine_ops.md R180). -/
def completedStatus (i : Instr) (s : State) : RspStatus :=
  match i with
  | .enqueue _ => if 2 ≤ s.queue.length then .rejected else .done
  | _ => .done

/-- CONSUMED for a POLL that takes its offer (44_machine_ops.md R175). -/
def completedConsumed (i : Instr) (s : State) : Bool :=
  match i with
  | .poll offer => takesOffer offer s
  | _ => false

theorem completedStatus_ne_halted (i : Instr) (s : State) : completedStatus i s ≠ .halted := by
  unfold completedStatus
  split
  · split <;> simp
  · simp

theorem completedStatus_eq_rejected_iff {i : Instr} {s : State} :
    completedStatus i s = .rejected ↔ 2 ≤ s.queue.length ∧ ∃ c, i = .enqueue c := by
  unfold completedStatus
  split
  · by_cases hfull : 2 ≤ s.queue.length <;> simp [hfull]
  · rename_i hother
    exact ⟨nofun, fun ⟨_, c, hc⟩ => (hother c hc).elim⟩

theorem takesOffer_iff {offer : Option Bundle} {s : State} :
    takesOffer offer s = true ↔ s.queue.length < 2 ∧ ∃ c, offer = some c := by
  rw [takesOffer, Bool.and_eq_true, Option.isSome_iff_exists, decide_eq_true_iff, and_comm]

theorem completedConsumed_iff {i : Instr} {s : State} :
    completedConsumed i s = true ↔ s.queue.length < 2 ∧ ∃ c, i = .poll (some c) := by
  unfold completedConsumed
  split
  · simp [takesOffer_iff]
  · rename_i hother
    exact ⟨nofun, fun ⟨_, c, hc⟩ => (hother (some c) hc).elim⟩

/-- TICK ends alike, as a STEP_MONITOR of its slot's axis (44_machine_ops.md R170, R171). -/
theorem stepMonitorOp_answer {axis : Option Axis} {now : Time} {s t : State} (h : stepMonitorOp axis now s = .ok t) :
    t.halted = s.halted ∧ t.rsp = doneRsp := by
  obtain ⟨u, hu, hrespond⟩ := bind_eq_ok.mp h
  cases hrespond
  have hhalted := stepMonitorBody_halted hu
  exact ⟨hhalted, rfl⟩

/-- A request whose body runs to its end keeps the halted flag and answers by the status rule. -/
theorem WritingRequest.answer_of_ok {i : Instr} {body : State → Micro} {s t : State} (h : WritingRequest i body)
    (hok : body s = .ok t) :
    t.halted = s.halted ∧ t.rsp = some (rspWord (completedStatus i s) (completedConsumed i s) 0#32) := by
  cases h with
  | tick now => exact stepMonitorOp_answer (s := s.setRrSlot (s.rrSlot + 1#2)) hok
  | stepMonitor axis now => exact stepMonitorOp_answer hok
  | poll offer =>
    obtain ⟨u, v, hintake, hretire, rfl⟩ := pollBody_eq_ok hok
    exact ⟨(retire_halted hretire).trans (pollIntake_halted hintake), rfl⟩
  | enqueue c =>
    obtain ⟨hfull, rfl⟩ | ⟨hroom, u, hintake, rfl⟩ := enqueueBody_cases hok
    · exact ⟨rfl, by simp [completedStatus, completedConsumed, hfull]⟩
    · exact ⟨(intake_writes hintake).halted, by simp [completedStatus, completedConsumed, hroom.not_ge]⟩
  | reservedOp0 => cases hok
  | reservedOp7 => cases hok
  | reservedOpHigh low => cases hok

/-- A request that writes leaves the block halted with the HALTED answer, or runs to its end in a running block. -/
theorem WritingRequest.answer_cases {i : Instr} {body : State → Micro} {s t : State} (h : WritingRequest i body)
    (hexec : exec i s = .next t) :
    (t.halted = true ∧ t.rsp = some (rspWord .halted false 0#32)) ∨
    (t.halted = false ∧ t.rsp = some (rspWord (completedStatus i s) (completedConsumed i s) 0#32)) := by
  rw [h.exec_eq] at hexec
  obtain ⟨hs, rfl⟩ | ⟨hs, hok⟩ | ⟨-, cause, axis, -, rfl⟩ := runRequest_cases hexec
  · exact .inl ⟨hs, rfl⟩
  · obtain ⟨hhalted, hrsp⟩ := h.answer_of_ok hok
    exact .inr ⟨hhalted.trans hs, hrsp⟩
  · exact .inl ⟨rfl, rfl⟩

end Sys2Proof.Machine

namespace Sys2Proof.Proofs

open Sys2Proof Sys2Proof.Machine Sys2Proof.Claims

/-- Settles O36: both reads run alike, and a table read past the last entry takes the default. -/
theorem readsAnswerAndChangeNothing : Obligations.ReadsAnswerAndChangeNothing := by
  intro s
  refine ⟨fun reg => (ReadRequest.readReg reg).exec_eq s, fun index =>
    ⟨_, (ReadRequest.readTable index).exec_eq s, fun hlt => ?_, fun hge => List.getD_eq_default _ _ hge⟩⟩
  rw [List.getD_eq_getElem _ _ hlt]
  exact List.getElem?_eq_getElem hlt

/-- Settles O40: a halted block stops each of the three kinds of instruction before its body. -/
theorem haltedInstructionsChangeNothing : Obligations.HaltedInstructionsChangeNothing := by
  intro i s hs
  obtain hcommand | ⟨value, hread⟩ | ⟨body, hwrite⟩ := instr_cases i
  · obtain ⟨c, rfl⟩ := hcommand
    have hexec : exec (Instr.ofCommand c) s = .next s.begin := (execCommand_eq c s).trans (runCommand_of_halted hs _)
    exact ⟨s.rsp, hexec, fun hnot => absurd ⟨c, rfl⟩ hnot⟩
  · have hexec : exec i s = .next (s.begin.respond .halted false (value s)) := by rw [hread.exec_eq, hs, if_pos rfl]
    refine ⟨_, hexec, fun _ => ⟨value s, rfl, ?_⟩⟩
    cases hread <;> simp
  · have hexec : exec i s = .next (s.begin.respond .halted false 0#32) :=
      (hwrite.exec_eq s).trans (runRequest_of_halted hs body)
    refine ⟨_, hexec, fun _ => ⟨0#32, rfl, ?_, ?_, fun _ _ => rfl⟩⟩
    · rintro reg rfl
      exact absurd (.readReg reg) hwrite.not_readRequest
    · rintro index rfl
      exact absurd (.readTable index) hwrite.not_readRequest

/-- Settles O43: a read answers by the halted flag alone, and a request that writes by one of its two outcomes. -/
theorem answersFollowTheStatusRule : Obligations.AnswersFollowTheStatusRule := by
  intro i s t hnot hexec
  obtain hcommand | ⟨value, hread⟩ | ⟨body, hwrite⟩ := instr_cases i
  · exact absurd hcommand hnot
  · rw [hread.exec_eq] at hexec
    cases hexec
    refine ⟨_, false, value s, rfl, ?_, ?_, ?_, fun _ => hread.eq_readReg_or_readTable⟩
    · cases hs : s.halted <;> simp [hs]
    · cases hread <;> cases hs : s.halted <;> simp
    · cases hread <;> simp
  · obtain ⟨hhalted, hrsp⟩ | ⟨hrunning, hrsp⟩ := hwrite.answer_cases hexec
    · exact ⟨.halted, false, 0#32, hrsp, by simp [hhalted], by simp [hhalted], by simp [hhalted], by simp⟩
    · refine ⟨_, _, 0#32, hrsp, ?_, ?_, ?_, by simp⟩
      · simp [hrunning, completedStatus_ne_halted]
      · simp [hrunning, completedStatus_eq_rejected_iff]
      · simp [hrunning, completedConsumed_iff]

end Sys2Proof.Proofs
end

section
/-! PROOF. The commands that write one field, the offsets and the fault of G20 (45_commands.md R201, R211 to R217), with the
headers they are decoded from. -/

namespace Sys2Proof.Machine

open Sys2Proof Sys2Proof.Claims

/-! ### Headers of the decode map's rows (30_encoding.md R87) -/

theorem usedHeaderBits_eq (h : Header) : usedHeaderBits h = headerWord (headerMnem h) (headerMajor h) (headerMinor h) :=
  header_and_mask h

/-- A row of the decode map with MNEM = G and MINOR = 0. -/
theorem decodeCmd_of_gHeader {c : Bundle} (major : BitVec 16)
    (h : usedHeaderBits (cmdHeader c) = headerWord 0#2 major 0#16) :
    decodeCmd c = decodeG major 0#16 (decodeSlots c) := by
  rw [usedHeaderBits_eq, headerWord_inj] at h
  obtain ⟨hmnem, hmajor, hminor⟩ := h
  rw [decodeCmd_of_mnemG hmnem, hmajor, hminor]

theorem decodeCmd_of_m30Header {c : Bundle} (h : usedHeaderBits (cmdHeader c) = headerWord 1#2 30#16 0#16) :
    decodeCmd c = .m30 := by
  rw [usedHeaderBits_eq, headerWord_inj] at h
  obtain ⟨hmnem, hmajor, hminor⟩ := h
  rw [decodeCmd_of_mnemM hmnem, hmajor, hminor]
  rfl

theorem decodeCmd_of_otherMHeader {c : Bundle} (hnot : usedHeaderBits (cmdHeader c) ≠ headerWord 1#2 30#16 0#16)
    (hm : cmdHeader c &&& 3#64 = headerWord 1#2 0#16 0#16) :
    decodeCmd c = .mOther (headerMajor (cmdHeader c)) (headerMinor (cmdHeader c)) := by
  obtain ⟨hmnem, -⟩ := headerWord_inj.mp ((header_and_three _).symm.trans hm)
  rw [usedHeaderBits_eq, ne_eq, headerWord_inj] at hnot
  rw [decodeCmd_of_mnemM hmnem, decodeM, if_neg fun hfields => hnot ⟨hmnem, hfields⟩]

/-! ### A command by itself -/

theorem runCommand_of_ok {s t : State} {body : State → Micro} (hs : s.halted = false) (h : body s.begin = .ok t) :
    runCommand body s = .next t := by
  rw [runCommand_of_running hs, h]
  rfl

/-- A command that raises a fault keeps nothing it wrote (60_exceptions.md R243). -/
theorem runCommand_of_raised {s : State} {body : State → Micro} {cause : FaultCause} {axis : Option Axis}
    (hs : s.halted = false) (h : body s.begin = .error (.raised cause axis)) :
    runCommand body s = .next (faulted s cause axis) := by
  rw [runCommand_of_running hs, h]
  rfl

/-! ### A fault at an intake or at a retirement -/

theorem pollBody_of_intake_error {offer : Option Bundle} {s : State} {e : Stop} (h : pollIntake offer s = .error e) :
    pollBody offer s = .error e := by
  rw [pollBody, h, error_bind]

theorem pollBody_of_retire_error {offer : Option Bundle} {s taken : State} {e : Stop}
    (htaken : pollIntake offer s = .ok taken) (h : retire taken = .error e) : pollBody offer s = .error e := by
  rw [pollBody, htaken, ok_bind, h, error_bind]

theorem enqueueBody_of_intake_error {c : Bundle} {s : State} {e : Stop} (hroom : s.queue.length < 2)
    (h : intake c s = .error e) : enqueueBody c s = .error e := by
  rw [enqueueBody, if_neg (Nat.not_le.mpr hroom), h, error_bind]

/-! ### G20 (45_commands.md R214) -/

section InchMode
variable {s : State} {c : Bundle} (hdec : decodeCmd c = .g20)
include hdec

theorem decodeHead_of_g20 {rest : List Bundle} (hqueue : s.queue = c :: rest) :
    decodeHead s = .error (.raised .inchMode none) := by
  rw [decodeHead_of_cons hqueue, hdec]
  rfl

theorem intake_of_g20 (hqueue : s.queue = []) : intake c s = .error (.raised .inchMode none) := by
  rw [intake_of_empty c hqueue]
  exact decodeHead_of_g20 (s := s.push c) (rest := []) hdec (by simp [hqueue])

/-- G20 behind a command that retires. -/
theorem retire_of_g20 {d : Bundle} (hqueue : s.queue = [d, c]) (htarget : s.allOnTarget = true) :
    retire s = .error (.raised .inchMode none) := by
  rw [retire_of_onTarget (by simp [hqueue]) htarget]
  exact decodeHead_of_g20 (s := s.pop) (rest := []) hdec (by simp [hqueue])

theorem pollBody_of_g20_offered (hqueue : s.queue = []) : pollBody (some c) s = .error (.raised .inchMode none) :=
  pollBody_of_intake_error ((pollIntake_of_some (by simp [hqueue])).trans (intake_of_g20 hdec hqueue))

theorem enqueueBody_of_g20 (hqueue : s.queue = []) : enqueueBody c s = .error (.raised .inchMode none) :=
  enqueueBody_of_intake_error (by simp [hqueue]) (intake_of_g20 hdec hqueue)

/-- The queue is full, so the offer is not taken. -/
theorem pollBody_of_g20_queued {d : Bundle} (offer : Option Bundle) (hqueue : s.queue = [d, c])
    (htarget : s.allOnTarget = true) : pollBody offer s = .error (.raised .inchMode none) :=
  pollBody_of_retire_error (pollIntake_of_none (by simp [takesOffer, hqueue])) (retire_of_g20 hdec hqueue htarget)

/-- The POLL that takes G20 in retires the command ahead of it. -/
theorem pollBody_of_g20_taken {d : Bundle} (hqueue : s.queue = [d]) (htarget : s.allOnTarget = true) :
    pollBody (some c) s = .error (.raised .inchMode none) := by
  have htaken : pollIntake (some c) s = .ok (s.push c) :=
    (pollIntake_of_some (by simp [hqueue])).trans (intake_of_head c (by simp [hqueue]))
  exact pollBody_of_retire_error htaken (retire_of_g20 (s := s.push c) (d := d) hdec (by simp [hqueue]) htarget)

end InchMode

/-! ### The gathered arguments (45_commands.md R201) -/

/-- The last argument of a tag stands in the last slot that holds it. -/
theorem getLast?_withTag (args : Slots) (tag : ArgTag) :
    (withTag args tag).getLast? =
      (args.a2.filter fun g => decide (g.tag = tag)).or
        ((args.a1.filter fun g => decide (g.tag = tag)).or (args.a0.filter fun g => decide (g.tag = tag))) := by
  rw [withTag, List.filter_filterMap, List.getLast?_filterMap]
  change ([args.a2] ++ ([args.a1] ++ [args.a0])).findSome? (Option.filter fun g => decide (g.tag = tag)) = _
  simp only [List.findSome?_append, List.findSome?_singleton]

/-- A slot takes the place of what was gathered for its own axis. -/
theorem gatherSlot_axis (g : Gathered) (slot : Option Arg) (a : Axis) :
    (gatherSlot g slot).axis.get a = (slot.filter fun arg => decide (arg.tag = tagOf a)).or (g.axis.get a) := by
  cases slot with
  | none => rfl
  | some arg =>
    obtain ⟨tag, int, frac, float⟩ := arg
    cases tag <;> cases a <;> rfl

/-- The later slot of a repeated tag wins. -/
theorem gather_axis (args : Slots) (a : Axis) :
    (gather args).axis.get a = (withTag args (tagOf a)).getLast? := by
  have hempty : Gathered.empty.axis.get a = none := by cases a <;> rfl
  simp [gather, gatherSlot_axis, hempty, getLast?_withTag]

/-! ### G92 (45_commands.md R211) -/

/-- The value G92 gives axis `a`, if it names the axis, lies in i32. -/
def OffsetFits (args : Slots) (s : State) (a : Axis) : Prop :=
  ∀ g, (withTag args (tagOf a)).getLast? = some g → inI32 (argToSteps g (s.resolution.get a)) = true

/-- The offset of axis `a` after G92. -/
def offsetAfter (args : Slots) (s : State) (a : Axis) : Word :=
  match (withTag args (tagOf a)).getLast? with
  | some g => BitVec.ofInt 32 (argToSteps g (s.resolution.get a))
  | none => s.homeOffset.get a

section SetOffset
variable {args : Slots} {s : State} {a : Axis}

theorem offsetAfter_of_some {g : Arg} (hg : (withTag args (tagOf a)).getLast? = some g) :
    offsetAfter args s a = BitVec.ofInt 32 (argToSteps g (s.resolution.get a)) := by
  simp only [offsetAfter, hg]

theorem offsetAfter_of_none (hg : (withTag args (tagOf a)).getLast? = none) :
    offsetAfter args s a = s.homeOffset.get a := by
  simp only [offsetAfter, hg]

/-- Writing one axis's offset leaves what G92 gives another. -/
theorem offsetAfter_setHomeOffset_of_ne {b : Axis} (v : Word) (h : a ≠ b) :
    offsetAfter args (s.setHomeOffset b v) a = offsetAfter args s a := by
  simp only [offsetAfter, State.setHomeOffset_resolution, State.setHomeOffset_homeOffset,
    PerAxis.get_set_of_ne _ _ _ _ h]

theorem offsetAxis_of_fits (h : OffsetFits args s a) :
    offsetAxis (gather args) a s = .ok (s.setHomeOffset a (offsetAfter args s a)) := by
  unfold offsetAxis
  rw [gather_axis]
  cases hg : (withTag args (tagOf a)).getLast? with
  | none => simp [offsetAfter_of_none hg, State.setHomeOffset]
  | some g => simp [offsetAfter_of_some hg, h g hg]

theorem offsetAxis_of_outside {g : Arg} (hg : (withTag args (tagOf a)).getLast? = some g)
    (h : inI32 (argToSteps g (s.resolution.get a)) = false) :
    offsetAxis (gather args) a s = .error (.raised .arithOverflow (some a)) := by
  simp [offsetAxis, gather_axis, hg, h]

/-- G92 takes the axes in the order X, Y, Z. -/
theorem cmdG92_eq : cmdG92 args s =
    (offsetAxis (gather args) .x s >>= fun sx => offsetAxis (gather args) .y sx >>= offsetAxis (gather args) .z) := rfl

theorem cmdG92_of_fits (h : ∀ a, OffsetFits args s a) :
    cmdG92 args s =
      .ok { s with homeOffset := ⟨offsetAfter args s .x, offsetAfter args s .y, offsetAfter args s .z⟩ } := by
  have hx := offsetAxis_of_fits (h .x)
  have hy := offsetAxis_of_fits (s := s.setHomeOffset .x (offsetAfter args s .x)) (h .y)
  rw [offsetAfter_setHomeOffset_of_ne _ (by decide)] at hy
  have hz := offsetAxis_of_fits
    (s := (s.setHomeOffset .x (offsetAfter args s .x)).setHomeOffset .y (offsetAfter args s .y)) (h .z)
  rw [offsetAfter_setHomeOffset_of_ne _ (by decide), offsetAfter_setHomeOffset_of_ne _ (by decide)] at hz
  rw [cmdG92_eq, hx, ok_bind, hy, ok_bind, hz]
  rfl

/-- The offsets written for the axes before the one that faults are discarded with the rest. -/
theorem cmdG92_of_outside {g : Arg} (hg : (withTag args (tagOf a)).getLast? = some g)
    (h : inI32 (argToSteps g (s.resolution.get a)) = false) (hbefore : ∀ b, before b a → OffsetFits args s b) :
    cmdG92 args s = .error (.raised .arithOverflow (some a)) := by
  have hraise (t : State) (ht : t.resolution = s.resolution) :
      offsetAxis (gather args) a t = .error (.raised .arithOverflow (some a)) :=
    offsetAxis_of_outside hg (ht ▸ h)
  have hpass (b : Axis) (hb : before b a) (t : State) (ht : t.resolution = s.resolution) :
      ∃ u, offsetAxis (gather args) b t = .ok u ∧ u.resolution = s.resolution :=
    ⟨_, offsetAxis_of_fits (fun g hg => ht ▸ hbefore b hb g hg), ht⟩
  rw [cmdG92_eq]
  cases a with
  | x => rw [hraise s rfl, error_bind]
  | y =>
    obtain ⟨sx, hx, hres⟩ := hpass .x (by unfold before; decide) s rfl
    rw [hx, ok_bind, hraise sx hres, error_bind]
  | z =>
    obtain ⟨sx, hx, hresx⟩ := hpass .x (by unfold before; decide) s rfl
    obtain ⟨sy, hy, hresy⟩ := hpass .y (by unfold before; decide) sx hresx
    rw [hx, ok_bind, hy, ok_bind, hraise sy hresy]

end SetOffset

end Sys2Proof.Machine

namespace Sys2Proof.Proofs

open Sys2Proof Sys2Proof.Machine Sys2Proof.Claims

/-- Settles O46: G20 raises INCH_MODE wherever it becomes the head, and a fault discards the operation that brought it
there. -/
theorem inchModeHaltsTheBlock : Obligations.InchModeHaltsTheBlock := by
  intro s hs
  refine ⟨runCommand_of_raised hs rfl, fun c hheader => ?_⟩
  have hdec : decodeCmd c = .g20 := decodeCmd_of_gHeader 20#16 hheader
  refine ⟨hdec, fun hqueue => ⟨?_, ?_⟩, fun d offer hqueue htarget => ?_, fun d hqueue htarget => ?_⟩
  · exact runRequest_of_raised hs (pollBody_of_g20_offered hdec hqueue)
  · exact runRequest_of_raised hs (enqueueBody_of_g20 hdec hqueue)
  · exact runRequest_of_raised hs (pollBody_of_g20_queued hdec offer hqueue htarget)
  · exact runRequest_of_raised hs (pollBody_of_g20_taken hdec hqueue htarget)

/-- Settles O50: G92 either writes the three offsets or raises the fault of the first axis that does not fit. -/
theorem setOffsetStoresTheScaledArguments : Obligations.SetOffsetStoresTheScaledArguments := by
  refine ⟨fun c hheader => decodeCmd_of_gHeader 92#16 hheader, fun s args hs => ⟨fun hfits => ?_, ?_⟩⟩
  · have hfits : ∀ a, OffsetFits args s.begin a := hfits
    refine ⟨_, runCommand_of_ok hs (cmdG92_of_fits hfits), rfl, fun a => ?_⟩
    have hget : (PerAxis.mk (offsetAfter args s.begin .x) (offsetAfter args s.begin .y)
        (offsetAfter args s.begin .z)).get a = offsetAfter args s.begin a := by cases a <;> rfl
    simp only [hget]
    split
    · rename_i g hg
      rw [offsetAfter_of_some hg]
      exact toInt_ofInt_of_inI32 (hfits a g hg)
    · rename_i hg
      exact offsetAfter_of_none hg
  · intro a g hg hout hbefore
    exact runCommand_of_raised hs (cmdG92_of_outside hg hout fun b hb h => hbefore b h hb)

/-- Settles O45: each command's effect is one update, and its header's used fields name its row. -/
theorem modalCommandsWriteTheirField : Obligations.ModalCommandsWriteTheirField := by
  refine ⟨fun s hs => ⟨runCommand_of_ok hs rfl, runCommand_of_ok hs rfl, runCommand_of_ok hs rfl, runCommand_of_ok hs rfl,
    fun _ _ => runCommand_of_ok hs rfl⟩, fun c => ⟨?_, ?_, ?_, decodeCmd_of_m30Header, ?_⟩⟩
  · exact decodeCmd_of_gHeader 90#16
  · exact decodeCmd_of_gHeader 91#16
  · exact decodeCmd_of_gHeader 21#16
  · exact fun hnot hm => ⟨_, _, decodeCmd_of_otherMHeader hnot hm⟩

end Sys2Proof.Proofs
end

section
/-! PROOF. Exceptions: what one step can do, the halted state that only reset leaves (60_exceptions.md R245), and the precision
of a fault (R241, R243). -/

namespace Sys2Proof.Machine

open Sys2Proof Sys2Proof.Claims

/-! ### What one step can do -/

/-- The three ways a step answers a next state (20_memory.md R57, 60_exceptions.md R255). -/
theorem step_cases {s t : State} (h : step s = .next t) :
    (s.inbox = [] ∧ t = s) ∨
    (∃ c rest, s.inbox = .reset c :: rest ∧ resetInput c (s.takeInput rest) = some t) ∨
    (∃ r cmd rest i, s.inbox = .request r cmd :: rest ∧ fetchInstr r cmd = .ok i ∧
      exec i (s.takeInput rest) = .next t) := by
  unfold step at h
  split at h
  next hin => cases h; exact .inl ⟨hin, rfl⟩
  next c rest hin =>
    split at h
    next u hreset => cases h; exact .inr (.inl ⟨c, rest, hin, hreset⟩)
    next => cases h
  next r cmd rest hin =>
    split at h
    next i hfetch => exact .inr (.inr ⟨r, cmd, rest, i, hin, hfetch, h⟩)
    next => cases h

/-! ### Every fault raised is one of the cause table (60_exceptions.md R240) -/

/-- STEP_MONITOR raises only TIME_OVERFLOW of the axis it polls; the model's own stop is no fault of the block. -/
theorem stepMonitorOp_raised_legal {axis faultAxis : Option Axis} {now : Time} {s : State} {cause : FaultCause}
    (h : stepMonitorOp axis now s = .error (.raised cause faultAxis)) : faultRecordLegal true cause faultAxis = true := by
  obtain hbody | ⟨u, -, hrespond⟩ := bind_eq_error.mp h
  · obtain ⟨a, -, hpoll⟩ := stepMonitorBody_error hbody
    obtain hoverflow | ⟨-, houtside⟩ := axisPoll_error hpoll
    · cases hoverflow; rfl
    · cases houtside
  · cases hrespond

/-- From the form the command and queue laws give: the fault raised is a legal one. -/
theorem faultRecordLegal_of_raised {cause : FaultCause} {axis : Option Axis}
    (h : ∃ cause' axis', Stop.raised cause axis = .raised cause' axis' ∧ faultRecordLegal true cause' axis' = true) :
    faultRecordLegal true cause axis = true := by
  obtain ⟨_, _, hsame, hlegal⟩ := h
  cases hsame
  exact hlegal

/-- Each request that writes raises only faults of the table; TICK as a STEP_MONITOR of its slot's axis. -/
theorem WritingRequest.raised_legal {i : Instr} {body : State → Micro} {s : State} {cause : FaultCause}
    {axis : Option Axis} (h : WritingRequest i body) (hraised : body s = .error (.raised cause axis)) :
    faultRecordLegal true cause axis = true := by
  cases h with
  | tick now => exact stepMonitorOp_raised_legal (s := s.setRrSlot (s.rrSlot + 1#2)) hraised
  | stepMonitor monitored now => exact stepMonitorOp_raised_legal hraised
  | poll offer => exact faultRecordLegal_of_raised (pollBody_error hraised)
  | enqueue c => exact faultRecordLegal_of_raised (enqueueBody_error hraised)
  | reservedOp0 => cases hraised; rfl
  | reservedOp7 => cases hraised; rfl
  | reservedOpHigh low => cases hraised; rfl

/-! ### A fault discards the operation's writes (60_exceptions.md R243) -/

/-- An operation that writes no halted flag and raises only faults of the table halts the block precisely. -/
theorem commit_precise {s t : State} {m : Micro} (hkeeps : ∀ u, m = .ok u → u.halted = false)
    (hlegal : ∀ cause axis, m = .error (.raised cause axis) → faultRecordLegal true cause axis = true)
    (h : commit s.begin m = .next t) (ht : t.halted = true) :
    t = faulted s t.faultCause t.faultAxis ∧ faultRecordLegal true t.faultCause t.faultAxis = true := by
  obtain hok | ⟨cause, axis, hraised, rfl⟩ := commit_eq_next.mp h
  · rw [hkeeps t hok] at ht
    cases ht
  · exact ⟨rfl, hlegal cause axis hraised⟩

end Sys2Proof.Machine

namespace Sys2Proof.Proofs

open Sys2Proof Sys2Proof.Machine Sys2Proof.Claims

/-- Settles O41: a read does not halt the block, and a command or a request that writes halts it only by the fault that
ends its body. -/
theorem faultsArePrecise : Obligations.FaultsArePrecise := by
  intro i s t hs hexec ht
  obtain ⟨c, rfl⟩ | ⟨value, hread⟩ | ⟨body, hwrite⟩ := instr_cases i
  · rw [execCommand_eq, runCommand_of_running hs] at hexec
    refine commit_precise (fun u hok => ?_) (fun cause axis hraised => ?_) hexec ht
    · exact (commandEffect_writes hok).halted.trans hs
    · exact faultRecordLegal_of_raised (commandEffect_error hraised)
  · rw [hread.exec_eq] at hexec
    cases hexec
    exact absurd (hs.symm.trans ht) Bool.false_ne_true
  · rw [hwrite.exec_eq, runRequest_of_running hs] at hexec
    refine commit_precise (fun u hok => ?_) (fun cause axis hraised => hwrite.raised_legal hraised) hexec ht
    obtain ⟨hhalted, -⟩ := hwrite.answer_of_ok hok
    exact hhalted.trans hs

/-- Settles O12: no input keeps the state, and a request runs an instruction, which changes nothing while halted. -/
theorem haltedIsLeftOnlyByReset : Obligations.HaltedIsLeftOnlyByReset := by
  intro s t hs hstep
  obtain ⟨-, rfl⟩ | ⟨c, rest, hin, -⟩ | ⟨r, cmd, rest, i, -, -, hexec⟩ := step_cases hstep
  · exact .inr ⟨hs, rfl⟩
  · exact .inl ⟨c, rest, hin⟩
  · obtain ⟨rsp, hunchanged, -⟩ := haltedInstructionsChangeNothing i (s.takeInput rest) hs
    rw [hunchanged] at hexec
    cases hexec
    exact .inr ⟨hs, rfl⟩

end Sys2Proof.Proofs
end

section
/-! PROOF. The encodings (30_encoding.md R70 to R87, 20_memory.md R52): the decoder on the encoder's words, on words by place
value and on the bytes that carry them. -/

namespace Sys2Proof

open Sys2Proof.Claims

/-! ### Fields by place value -/

/-- A field of a word is the word without its low bits, cut to the field's width. -/
theorem extractLsb'_eq_ofNat {w : Nat} (x : BitVec w) (start len : Nat) :
    x.extractLsb' start len = BitVec.ofNat len (x.toNat / 2 ^ start) := by
  rw [← Nat.shiftRight_eq_div_pow]
  rfl

theorem extractLsb'_zero_eq_ofNat {w : Nat} (x : BitVec w) (len : Nat) :
    x.extractLsb' 0 len = BitVec.ofNat len x.toNat := by
  rw [extractLsb'_eq_ofNat, pow_zero, Nat.div_one]

/-! ### Requests by their OP (30_encoding.md R72) -/

section RequestByOp
variable {r : ReqWord} (cmd : Option Bundle)

theorem decodeReq_of_op_one (h : r.toNat % 16 = 1) : decodeReq r cmd = .ok (.tick (reqNow r)) := by
  simp only [decodeReq, reqOp_toNat, h]

theorem decodeReq_of_op_two (h : r.toNat % 16 = 2) :
    decodeReq r cmd = .ok (.stepMonitor (axisOfCode (reqAxis r)) (reqNow r)) := by
  simp only [decodeReq, reqOp_toNat, h]

theorem decodeReq_of_op_three (h : r.toNat % 16 = 3) : decodeReq r cmd = .ok (.poll cmd) := by
  simp only [decodeReq, reqOp_toNat, h]

theorem decodeReq_of_op_four_some (c : Bundle) (h : r.toNat % 16 = 4) : decodeReq r (some c) = .ok (.enqueue c) := by
  simp only [decodeReq, reqOp_toNat, h]

theorem decodeReq_of_op_four_none (h : r.toNat % 16 = 4) : decodeReq r none = .error .enqueueWithoutCommand := by
  simp only [decodeReq, reqOp_toNat, h]

theorem decodeReq_of_op_five (h : r.toNat % 16 = 5) : decodeReq r cmd = .ok (.readReg (reqReg r)) := by
  simp only [decodeReq, reqOp_toNat, h]

theorem decodeReq_of_op_six (h : r.toNat % 16 = 6) : decodeReq r cmd = .ok (.readTable (reqIndex r)) := by
  simp only [decodeReq, reqOp_toNat, h]

/-- The OPs of 30_encoding.md R72 and R73. -/
theorem op_cases (r : ReqWord) :
    r.toNat % 16 = 0 ∨ r.toNat % 16 = 1 ∨ r.toNat % 16 = 2 ∨ r.toNat % 16 = 3 ∨ r.toNat % 16 = 4 ∨ r.toNat % 16 = 5 ∨
    r.toNat % 16 = 6 ∨ r.toNat % 16 = 7 ∨ 8 ≤ r.toNat % 16 := by omega

end RequestByOp

theorem reqWord_op (op : BitVec 4) (axis : BitVec 2) (reg : BitVec 8) (index : BitVec 16) (now : Time) :
    (reqWord op axis reg index now).toNat % 16 = op.toNat := by
  rw [← reqOp_toNat, reqOp_reqWord]

theorem opWord_op (op : BitVec 4) : (opWord op).toNat % 16 = op.toNat := reqWord_op ..

/-- The low bits of a request word with a reserved OP (30_encoding.md R73). -/
theorem extract_opWord_high (low : BitVec 3) : (opWord (1#1 ++ low)).extractLsb' 0 3 = low := by
  simp (disch := omega) only [opWord, reqWord, BitVec.extractLsb'_append_eq_of_add_le, BitVec.extractLsb'_eq_self]

/-- The low three bits of a request are the low three of its OP (30_encoding.md R71). -/
theorem extract_low_eq_of_reqOp_eq {r q : ReqWord} (h : reqOp r = reqOp q) : r.extractLsb' 0 3 = q.extractLsb' 0 3 := by
  have hmod : r.toNat % 16 = q.toNat % 16 := by rw [← reqOp_toNat, ← reqOp_toNat, h]
  rw [extractLsb'_zero_eq_ofNat, extractLsb'_zero_eq_ofNat]
  apply BitVec.eq_of_toNat_eq
  simp only [BitVec.toNat_ofNat]
  omega

theorem reqOp_eq_ofNat {r : ReqWord} {n : Nat} (hn : n < 16) (h : r.toNat % 16 = n) : reqOp r = BitVec.ofNat 4 n := by
  apply BitVec.eq_of_toNat_eq
  rw [reqOp_toNat, h, BitVec.toNat_ofNat, Nat.mod_eq_of_lt hn]

/-- An operation is decoded from the fields it uses alone (30_encoding.md R71). -/
theorem decodeReq_congr {r q : ReqWord} {cmd cmd' : Option Bundle} (hop : reqOp r = reqOp q)
    (hnow : reqOp r = 1#4 ∨ reqOp r = 2#4 → reqNow r = reqNow q) (haxis : reqOp r = 2#4 → reqAxis r = reqAxis q)
    (hcmd : reqOp r = 3#4 ∨ reqOp r = 4#4 → cmd = cmd') (hreg : reqOp r = 5#4 → reqReg r = reqReg q)
    (hindex : reqOp r = 6#4 → reqIndex r = reqIndex q) : decodeReq r cmd = decodeReq q cmd' := by
  have hmod : q.toNat % 16 = r.toNat % 16 := by rw [← reqOp_toNat, ← reqOp_toNat, hop]
  rcases op_cases r with h | h | h | h | h | h | h | h | h
  · rw [decodeReq_of_op_zero _ h, decodeReq_of_op_zero _ (hmod.trans h)]
  · rw [decodeReq_of_op_one _ h, decodeReq_of_op_one _ (hmod.trans h), hnow (.inl (reqOp_eq_ofNat (by decide) h))]
  · have hop2 := reqOp_eq_ofNat (by decide) h
    rw [decodeReq_of_op_two _ h, decodeReq_of_op_two _ (hmod.trans h), hnow (.inr hop2), haxis hop2]
  · rw [decodeReq_of_op_three _ h, decodeReq_of_op_three _ (hmod.trans h),
      hcmd (.inl (reqOp_eq_ofNat (by decide) h))]
  · obtain rfl := hcmd (.inr (reqOp_eq_ofNat (by decide) h))
    cases cmd with
    | none => rw [decodeReq_of_op_four_none h, decodeReq_of_op_four_none (hmod.trans h)]
    | some c => rw [decodeReq_of_op_four_some c h, decodeReq_of_op_four_some c (hmod.trans h)]
  · rw [decodeReq_of_op_five _ h, decodeReq_of_op_five _ (hmod.trans h), hreg (reqOp_eq_ofNat (by decide) h)]
  · rw [decodeReq_of_op_six _ h, decodeReq_of_op_six _ (hmod.trans h), hindex (reqOp_eq_ofNat (by decide) h)]
  · rw [decodeReq_of_op_seven _ h, decodeReq_of_op_seven _ (hmod.trans h)]
  · rw [decodeReq_of_op_high _ h, decodeReq_of_op_high _ (hmod ▸ h), extract_low_eq_of_reqOp_eq hop]

/-! ### The catch-all rows of the decode map (30_encoding.md R87) -/

/-- Rows 1 to 7 are all that row 10 leaves out. -/
theorem decodeG_of_not_taken {major minor : BitVec 16} (args : Slots) (h : takenByGRow major minor = false) :
    decodeG major minor args = .gUnrecognized major minor := by
  by_cases hminor : minor = 0#16
  · subst hminor
    simp only [takenByGRow, recognizedGMajors, beq_self_eq_true, Bool.true_and, List.contains_cons, List.contains_nil,
      Bool.or_false, Bool.or_eq_false_iff, beq_eq_false_iff_ne] at h
    obtain ⟨h0, h1, h20, h21, h90, h91, h92⟩ := h
    simp only [decodeG_minor_zero, if_neg h0, if_neg h1, if_neg h20, if_neg h21, if_neg h90, if_neg h91, if_neg h92]
  · exact decodeG_of_minor_ne args hminor

theorem decodeG_wellFormed (major minor : BitVec 16) (args : Slots) :
    (Instr.ofCommand (decodeG major minor args)).wellFormed = true := by
  cases htaken : takenByGRow major minor with
  | false => simp [decodeG_of_not_taken args htaken, Instr.ofCommand, Instr.wellFormed, htaken]
  | true =>
    simp only [takenByGRow, recognizedGMajors, Bool.and_eq_true, beq_iff_eq, List.contains_iff_mem, List.mem_cons,
      List.not_mem_nil, or_false] at htaken
    obtain ⟨rfl, rfl | rfl | rfl | rfl | rfl | rfl | rfl⟩ := htaken <;> rfl

theorem takenByM30Row_iff {major minor : BitVec 16} :
    takenByM30Row major minor = true ↔ major = 30#16 ∧ minor = 0#16 := by
  rw [takenByM30Row, Bool.and_eq_true, beq_iff_eq, beq_iff_eq, and_comm]

theorem decodeM_of_not_taken {major minor : BitVec 16} (h : takenByM30Row major minor = false) :
    decodeM major minor = .mOther major minor :=
  if_neg fun hfields => Bool.false_ne_true (h.symm.trans (takenByM30Row_iff.mpr hfields))

theorem decodeM_wellFormed (major minor : BitVec 16) : (Instr.ofCommand (decodeM major minor)).wellFormed = true := by
  cases htaken : takenByM30Row major minor with
  | false => simp [decodeM_of_not_taken htaken, Instr.ofCommand, Instr.wellFormed, htaken]
  | true =>
    obtain ⟨rfl, rfl⟩ := takenByM30Row_iff.mp htaken
    rfl

theorem decodeCmd_wellFormed (c : Bundle) : (Instr.ofCommand (decodeCmd c)).wellFormed = true := by
  rcases mnem_cases (headerMnem (cmdHeader c)) with h | h | h | h
  · rw [decodeCmd_of_mnemG h]; exact decodeG_wellFormed ..
  · rw [decodeCmd_of_mnemM h]; exact decodeM_wellFormed ..
  · rw [decodeCmd_of_mnemN h]; rfl
  · rw [decodeCmd_of_mnemUnknown h]; rfl

/-- A request is a well-formed operation, or an ENQUEUE that carries no bundle (30_encoding.md R70, R72). -/
theorem decodeReq_wellFormed_or (r : ReqWord) (cmd : Option Bundle) :
    (∃ i, decodeReq r cmd = .ok i ∧ i.wellFormed = true) ∨
    (r.toNat % 16 = 4 ∧ cmd = none ∧ decodeReq r cmd = .error .enqueueWithoutCommand) := by
  rcases op_cases r with h | h | h | h | h | h | h | h | h
  · exact .inl ⟨_, decodeReq_of_op_zero cmd h, rfl⟩
  · exact .inl ⟨_, decodeReq_of_op_one cmd h, rfl⟩
  · exact .inl ⟨_, decodeReq_of_op_two cmd h, rfl⟩
  · exact .inl ⟨_, decodeReq_of_op_three cmd h, rfl⟩
  · cases cmd with
    | none => exact .inr ⟨h, rfl, decodeReq_of_op_four_none h⟩
    | some c => exact .inl ⟨_, decodeReq_of_op_four_some c h, rfl⟩
  · exact .inl ⟨_, decodeReq_of_op_five cmd h, rfl⟩
  · exact .inl ⟨_, decodeReq_of_op_six cmd h, rfl⟩
  · exact .inl ⟨_, decodeReq_of_op_seven cmd h, rfl⟩
  · exact .inl ⟨_, decodeReq_of_op_high cmd h, rfl⟩

/-! ### The decoder on the encoder's command words -/

section CommandWord
variable (major minor : BitVec 16) (args : Slots)

theorem decode_commandWord_g :
    decode (commandWord 0#2 major minor args) = .ok (Instr.ofCommand (decodeG major minor args)) := by
  simp [decode, commandWord, decodeCmd_of_mnemG]

theorem decode_commandWord_m :
    decode (commandWord 1#2 major minor args) = .ok (Instr.ofCommand (decodeM major minor)) := by
  simp [decode, commandWord, decodeCmd_of_mnemM]

theorem decode_commandWord_n :
    decode (commandWord 2#2 major minor args) = .ok (.nUnrecognized major minor) := by
  simp [decode, commandWord, decodeCmd_of_mnemN, Instr.ofCommand]

theorem decode_commandWord_unknown :
    decode (commandWord 3#2 major minor args) = .ok (.unknownUnrecognized major minor) := by
  simp [decode, commandWord, decodeCmd_of_mnemUnknown, Instr.ofCommand]

end CommandWord

theorem decode_encode {i : Instr} (h : i.wellFormed = true) : decode (encode i) = .ok i := by
  cases i with
  | tick now => exact (decodeReq_of_op_one none (reqWord_op ..)).trans (by rw [reqNow_reqWord])
  | stepMonitor axis now =>
    exact (decodeReq_of_op_two none (reqWord_op ..)).trans
      (by rw [reqAxis_reqWord, axisOfCode_axisCode, reqNow_reqWord])
  | poll offer => exact decodeReq_of_op_three offer (opWord_op 3#4)
  | enqueue c => exact decodeReq_of_op_four_some c (opWord_op 4#4)
  | readReg reg => exact (decodeReq_of_op_five none (reqWord_op ..)).trans (by rw [reqReg_reqWord])
  | readTable index => exact (decodeReq_of_op_six none (reqWord_op ..)).trans (by rw [reqIndex_reqWord])
  | reservedOp0 => exact decodeReq_of_op_zero none (opWord_op 0#4)
  | reservedOp7 => exact decodeReq_of_op_seven none (opWord_op 7#4)
  | reservedOpHigh low =>
    have hhigh : 8 ≤ (opWord (1#1 ++ low)).toNat % 16 := by
      rw [opWord_op, Machine.toNat_append_eq_add]
      exact Nat.le_add_right ..
    exact (decodeReq_of_op_high none hhigh).trans (by rw [extract_opWord_high])
  | g0 args => exact decode_commandWord_g ..
  | g1 args => exact decode_commandWord_g ..
  | g20 => exact decode_commandWord_g ..
  | g21 => exact decode_commandWord_g ..
  | g90 => exact decode_commandWord_g ..
  | g91 => exact decode_commandWord_g ..
  | g92 args => exact decode_commandWord_g ..
  | m30 => exact decode_commandWord_m ..
  | mOther major minor =>
    have hrow : takenByM30Row major minor = false := by simpa [Instr.wellFormed] using h
    exact (decode_commandWord_m ..).trans (by rw [decodeM_of_not_taken hrow]; rfl)
  | gUnrecognized major minor =>
    have hrow : takenByGRow major minor = false := by simpa [Instr.wellFormed] using h
    exact (decode_commandWord_g ..).trans (by rw [decodeG_of_not_taken _ hrow]; rfl)
  | nUnrecognized major minor => exact decode_commandWord_n ..
  | unknownUnrecognized major minor => exact decode_commandWord_unknown ..

/-! ### Slots by place value, and their ignored bits (30_encoding.md R83, R84, R86) -/

/-- TAG numbers the tags of 30_encoding.md R84. -/
theorem tagTable_getElem? : ∀ v : BitVec 3, tagTable[v.toNat]? = some (tagOfCode v) := by decide

/-- AXIS numbers the axes of 30_encoding.md R71, with 3 for the idle slot. -/
theorem axisTable_getElem? :
    ∀ v : BitVec 2, (axisCode (axisOfCode v)).toNat = v.toNat ∧ axisTable[v.toNat]? = some (axisOfCode v) := by decide

theorem present_iff (w : SlotWord) : w.extractLsb' 51 1 = 1#1 ↔ w.toNat / 2 ^ 51 % 2 = 1 := by
  rw [extractLsb'_eq_ofNat, BitVec.toNat_eq]
  rfl

theorem present_iff_getLsbD (w : SlotWord) : w.extractLsb' 51 1 = 1#1 ↔ w.getLsbD 51 = true := by
  rw [present_iff, BitVec.getLsbD, Nat.testBit_eq_decide_div_mod_eq, decide_eq_true_iff]

/-- Masking a slot's ignored bits leaves what it decodes to. -/
theorem decodeSlot_usedSlotBits (w : SlotWord) : decodeSlot (usedSlotBits w) = decodeSlot w := by
  unfold usedSlotBits
  cases hpresent : w.getLsbD 51 with
  | false =>
    have hempty : ¬ w.extractLsb' 51 1 = 1#1 := by rw [present_iff_getLsbD, hpresent]; exact Bool.false_ne_true
    rw [if_neg Bool.false_ne_true, decodeSlot, decodeSlot, if_neg hempty]
    rfl
  | true =>
    have hfield (start len : Nat) (hmask : (0xFFFFFFFF000FFFFFFFFFFFFF#96).extractLsb' start len = BitVec.allOnes len) :
        (w &&& 0xFFFFFFFF000FFFFFFFFFFFFF#96).extractLsb' start len = w.extractLsb' start len := by
      rw [BitVec.extractLsb'_and, hmask, BitVec.and_allOnes]
    rw [if_pos rfl, decodeSlot, decodeSlot, hfield 51 1 (by decide), hfield 48 3 (by decide), hfield 0 32 (by decide),
      hfield 32 16 (by decide), hfield 64 32 (by decide)]

theorem decodeSlot_of_present {w : SlotWord} (h : w.toNat / 2 ^ 51 % 2 = 1) :
    decodeSlot w = some { tag := tagOfCode (w.extractLsb' 48 3), int := BitVec.ofNat 32 w.toNat,
                          frac := BitVec.ofNat 16 (w.toNat / 2 ^ 32), float := BitVec.ofNat 32 (w.toNat / 2 ^ 64) } := by
  rw [decodeSlot, if_pos ((present_iff w).mpr h), extractLsb'_zero_eq_ofNat, extractLsb'_eq_ofNat w 32,
    extractLsb'_eq_ofNat w 64]

theorem decodeSlot_of_absent {w : SlotWord} (h : w.toNat / 2 ^ 51 % 2 = 0) : decodeSlot w = none :=
  if_neg fun hpresent => by rw [present_iff, h] at hpresent; exact Nat.zero_ne_one hpresent

theorem tagTable_of_slot (w : SlotWord) : tagTable[w.toNat / 2 ^ 48 % 8]? = some (tagOfCode (w.extractLsb' 48 3)) := by
  have hcode : (w.extractLsb' 48 3).toNat = w.toNat / 2 ^ 48 % 8 := by
    rw [extractLsb'_eq_ofNat]
    rfl
  rw [← hcode, tagTable_getElem?]

/-- The slots start at bits 64, 160 and 256 of a bundle (30_encoding.md R80). -/
theorem decodeSlots_eq (c : Bundle) :
    decodeSlots c = { a0 := decodeSlot (BitVec.ofNat 96 (c.toNat / 2 ^ 64)),
                      a1 := decodeSlot (BitVec.ofNat 96 (c.toNat / 2 ^ 160)),
                      a2 := decodeSlot (BitVec.ofNat 96 (c.toNat / 2 ^ 256)) } := by
  rw [decodeSlots, cmdSlot0, cmdSlot1, cmdSlot2, extractLsb'_eq_ofNat c 64, extractLsb'_eq_ofNat c 160,
    extractLsb'_eq_ofNat c 256]

theorem decodeSlot_congr {v w : SlotWord} (h : usedSlotBits v = usedSlotBits w) : decodeSlot v = decodeSlot w := by
  rw [← decodeSlot_usedSlotBits, h, decodeSlot_usedSlotBits]

theorem decodeCmd_congr {c d : Bundle} (hheader : usedHeaderBits (cmdHeader c) = usedHeaderBits (cmdHeader d))
    (hslots : decodeSlots c = decodeSlots d) : decodeCmd c = decodeCmd d := by
  rw [Machine.usedHeaderBits_eq, Machine.usedHeaderBits_eq, headerWord_inj] at hheader
  obtain ⟨hmnem, hmajor, hminor⟩ := hheader
  simp only [decodeCmd, hmnem, hmajor, hminor, hslots]

/-! ### Bytes (20_memory.md R52) -/

/-- The bytes that hold a word carry it. -/
theorem ofNat_ofLeBytes_leBytes {n w : Nat} (x : BitVec w) (h : w = 8 * n) :
    BitVec.ofNat w (ofLeBytes (leBytes n x.toNat)) = x := by
  have hlt : x.toNat < 256 ^ n :=
    calc x.toNat < 2 ^ w := x.isLt
      _ = 256 ^ n := by rw [h, pow_mul]; rfl
  rw [ofLeBytes_leBytes, Nat.mod_eq_of_lt hlt, BitVec.ofNat_toNat, BitVec.setWidth_eq]

theorem getElem?_leBytes_toNat {n k w : Nat} (x : BitVec w) (h : k < n) :
    (leBytes n x.toNat)[k]? = some (x.extractLsb' (8 * k) 8) := by
  rw [getElem?_leBytes _ h, extractLsb'_eq_ofNat, pow_mul]
  rfl

section CarriedWords
variable (r : ReqWord) (c : Bundle)

theorem bytesOfWords_req : bytesOfWords { req := some r, cmd := none } = leBytes 16 r.toNat := List.append_nil _

theorem bytesOfWords_cmd : bytesOfWords { req := none, cmd := some c } = leBytes 44 c.toNat := rfl

theorem bytesOfWords_both :
    bytesOfWords { req := some r, cmd := some c } = leBytes 16 r.toNat ++ leBytes 44 c.toNat := rfl

theorem wordsOfBytes_req :
    wordsOfBytes (bytesOfWords { req := some r, cmd := none }) = .ok { req := some r, cmd := none } := by
  simp [bytesOfWords_req, wordsOfBytes, ofNat_ofLeBytes_leBytes]

theorem wordsOfBytes_cmd :
    wordsOfBytes (bytesOfWords { req := none, cmd := some c }) = .ok { req := none, cmd := some c } := by
  simp [bytesOfWords_cmd, wordsOfBytes, ofNat_ofLeBytes_leBytes]

theorem wordsOfBytes_both :
    wordsOfBytes (bytesOfWords { req := some r, cmd := some c }) = .ok { req := some r, cmd := some c } := by
  have htake : (leBytes 16 r.toNat ++ leBytes 44 c.toNat).take 16 = leBytes 16 r.toNat :=
    List.take_left' (length_leBytes ..)
  have hdrop : (leBytes 16 r.toNat ++ leBytes 44 c.toNat).drop 16 = leBytes 44 c.toNat :=
    List.drop_left' (length_leBytes ..)
  simp only [bytesOfWords_both, wordsOfBytes, List.length_append, length_leBytes, htake, hdrop, Nat.reduceAdd,
    Nat.reduceEqDiff, if_false, if_true, ofNat_ofLeBytes_leBytes]

end CarriedWords

/-- The bytes of carried words give the words back, where any were carried. -/
theorem wordsOfBytes_bytesOfWords {w : Words} (h : decode w ≠ .error .nothingCarried) :
    wordsOfBytes (bytesOfWords w) = .ok w := by
  obtain ⟨_ | r, _ | c⟩ := w
  · exact absurd rfl h
  · exact wordsOfBytes_cmd c
  · exact wordsOfBytes_req r
  · exact wordsOfBytes_both r c

theorem rspOfBytes_eq_ok {bs : List Byte} {p : RspWord} : rspOfBytes bs = .ok p ↔ bs = bytesOfRsp p := by
  constructor
  · intro h
    unfold rspOfBytes at h
    split at h
    next hlen =>
      cases h
      have hlt : ofLeBytes bs < 2 ^ 64 := by
        have hmod := ofLeBytes_leBytes bs.length (ofLeBytes bs)
        rw [leBytes_ofLeBytes, hlen] at hmod
        rw [hmod]
        exact Nat.mod_lt _ (by norm_num)
      rw [bytesOfRsp, BitVec.toNat_ofNat, Nat.mod_eq_of_lt hlt, ← hlen, leBytes_ofLeBytes]
    next => cases h
  · rintro rfl
    rw [rspOfBytes, bytesOfRsp, if_pos (length_leBytes ..), ofNat_ofLeBytes_leBytes p rfl]

end Sys2Proof

namespace Sys2Proof.Machine

open Sys2Proof

/-! ### The response word by place value (30_encoding.md R74) -/

theorem rspWord_toNat (st : RspStatus) (consumed : Bool) (data : Word) :
    (rspWord st consumed data).toNat = data.toNat * 2 ^ 32 + consumed.toNat * 4 + st.code.toNat := by
  simp only [rspWord, toNat_append_eq_add, BitVec.toNat_ofBool, BitVec.toNat_zero]
  omega

theorem step_of_no_input {s : State} (h : s.inbox = []) : step s = .next s := by simp [step, h]

end Sys2Proof.Machine

namespace Sys2Proof.Proofs

open Sys2Proof Sys2Proof.Machine Sys2Proof.Claims

/-- Settles O1: each request word gives its OP and operands back, and each command word its row of the decode map. -/
theorem decodeOfEncodeIsTheInstruction : Obligations.DecodeOfEncodeIsTheInstruction := fun _ => decode_encode

/-- Settles O2: the bytes give the words back, and the words the instruction. -/
theorem carriedBytesDecodeToTheInstruction : Obligations.CarriedBytesDecodeToTheInstruction := by
  intro i h
  have hwords : wordsOfBytes (encodeBytes i) = .ok (encode i) :=
    wordsOfBytes_bytesOfWords (by rw [decode_encode h]; nofun)
  rw [decodeBytes, hwords]
  exact decode_encode h

/-- Settles O4: each field by its place value, and the decoder sees a slot and a header through their used bits alone. -/
theorem ignoredBundleBitsDoNotMatter : Obligations.IgnoredBundleBitsDoNotMatter := by
  refine ⟨fun c => ⟨extractLsb'_zero_eq_ofNat c 64, decodeSlots_eq c⟩,
    fun h => ⟨?_, extractLsb'_eq_ofNat .., extractLsb'_eq_ofNat ..⟩,
    fun w => ⟨decodeSlot_of_absent, fun hpresent => ⟨_, tagTable_of_slot w, decodeSlot_of_present hpresent⟩⟩, ?_⟩
  · rw [headerMnem, extractLsb'_zero_eq_ofNat]
    rfl
  · intro c d hheader h0 h1 h2
    refine decodeCmd_congr hheader ?_
    rw [decodeSlots, decodeSlots, decodeSlot_congr h0, decodeSlot_congr h1, decodeSlot_congr h2]

/-- Settles O5: the decode map's catch-all rows take what the earlier rows leave, and every OP but an ENQUEUE's decodes. -/
theorem everyWordDecodesOrNamesWhyNot : Obligations.EveryWordDecodesOrNamesWhyNot :=
  ⟨decodeCmd_wellFormed, decodeReq_wellFormed_or⟩

/-- Settles O6: one equation per OP, its fields by place value. -/
theorem requestFieldsByPlaceValue : Obligations.RequestFieldsByPlaceValue := by
  intro r cmd
  have hnow : reqNow r = BitVec.ofNat 64 (r.toNat / 2 ^ 64) := extractLsb'_eq_ofNat ..
  refine ⟨fun h => hnow ▸ decodeReq_of_op_one cmd h, fun h => ?_, decodeReq_of_op_three cmd, fun h c hc => ?_,
    fun h => ?_, fun h => ?_, decodeReq_of_op_zero cmd, decodeReq_of_op_seven cmd, fun h => ?_⟩
  · have haxis : (reqAxis r).toNat = r.toNat / 16 % 4 := by
      rw [reqAxis, extractLsb'_eq_ofNat]
      rfl
    obtain ⟨hcode, htable⟩ := axisTable_getElem? (reqAxis r)
    rw [haxis] at hcode htable
    exact ⟨_, hcode, htable, hnow ▸ decodeReq_of_op_two cmd h⟩
  · rw [hc, decodeReq_of_op_four_some c h]
  · rw [decodeReq_of_op_five cmd h, reqReg, extractLsb'_eq_ofNat]
    rfl
  · rw [decodeReq_of_op_six cmd h, reqIndex, extractLsb'_eq_ofNat]
    rfl
  · have hlow : r.extractLsb' 0 3 = BitVec.ofNat 3 (r.toNat % 16 - 8) := by
      rw [extractLsb'_zero_eq_ofNat]
      apply BitVec.eq_of_toNat_eq
      simp only [BitVec.toNat_ofNat]
      omega
    rw [decodeReq_of_op_high cmd h, hlow]

/-- Settles O7: the two requests decode alike, and a step sees nothing else of a request. -/
theorem unusedRequestFieldsDoNotMatter : Obligations.UnusedRequestFieldsDoNotMatter := by
  intro s r q cmd cmd' rest hop hnow haxis hcmd hreg hindex
  have hfetch : fetchInstr r cmd = fetchInstr q cmd' := by
    rw [fetchInstr, decodeReq_congr hop hnow haxis hcmd hreg hindex, fetchInstr]
  simp only [step, hfetch]
  rfl

/-- Settles O60: a word's bytes are its digits in base 256. -/
theorem carriedWordsAreLittleEndian : Obligations.CarriedWordsAreLittleEndian := by
  refine ⟨fun r => ⟨wordsOfBytes_req r, fun k hk => ?_⟩, fun c => ⟨wordsOfBytes_cmd c, fun k hk => ?_⟩,
    fun p k hk => getElem?_leBytes_toNat p hk, fun bs p => rspOfBytes_eq_ok⟩
  · rw [bytesOfWords_req, getElem?_leBytes_toNat r hk]
  · rw [bytesOfWords_cmd, getElem?_leBytes_toNat c hk]

/-- Settles O8: the decoder run on each word. -/
theorem sampleWordsDecode : Obligations.SampleWordsDecode := by
  unfold Obligations.SampleWordsDecode
  decide

/-- Settles O9: the fetch of a request that decodes, and the step with no input. -/
theorem stepRunsTheDecodedInstruction : Obligations.StepRunsTheDecodedInstruction :=
  ⟨fun _ _ _ _ _ hin hdec _ => step_of_request hin hdec, fun _ => step_of_no_input⟩

/-- Settles O42: each field from the word's sum of place values. -/
theorem responseWordFields : Obligations.ResponseWordFields := by
  intro st consumed data
  have hword := rspWord_toNat st consumed data
  have hbit := Bool.toNat_lt consumed
  have hcode_lt : st.code.toNat < 3 := by cases st <;> decide
  have hstatus : (rspWord st consumed data).toNat % 4 = st.code.toNat := by omega
  refine ⟨hstatus.trans (by cases st <;> rfl), ?_, by omega, by omega⟩
  simp only [rspWord, BitVec.getLsbD_append]
  simp

end Sys2Proof.Proofs
end

section
/-! PROOF. The legality of a configuration (00_scope.md R6, R7) and the order of the built table (40_ramp_table.md R100,
R101). -/

namespace Sys2Proof.Machine

open Sys2Proof

/-! ### The order of a table -/

/-- A table is in order where no entry rises above the one before it. -/
theorem nonIncreasing_iff (table : List Word) :
    nonIncreasing table = true ↔
      ∀ i, i + 1 < table.length → (table.getD (i + 1) 0#32).toNat ≤ (table.getD i 0#32).toNat := by
  fun_induction nonIncreasing table with
  | case1 a b rest ih =>
    rw [Bool.and_eq_true, decide_eq_true_iff, ih]
    constructor
    · rintro ⟨hfirst, hrest⟩ (_ | i) hi
      · exact hfirst
      · exact hrest i (Nat.lt_of_succ_lt_succ hi)
    · intro h
      exact ⟨h 0 (Nat.succ_lt_succ (Nat.succ_pos _)), fun i hi => h (i + 1) (Nat.succ_lt_succ hi)⟩
  | case2 table hshort =>
    refine ⟨fun _ i hi => ?_, fun _ => rfl⟩
    match table, hshort, hi with
    | a :: b :: rest, hshort, _ => exact (hshort a b rest rfl).elim

/-- The factor of `AccDelay` is below 1, so the built table never rises (40_ramp_table.md R101). -/
theorem getD_buildTable_antitone (t0 : Word) {n i j : Nat} (hij : i ≤ j) (hj : j < n) :
    ((buildTable t0 n).getD j 0#32).toNat ≤ ((buildTable t0 n).getD i 0#32).toNat := by
  induction j, hij using Nat.le_induction with
  | base => exact le_rfl
  | succ j _ ih =>
    calc ((buildTable t0 n).getD (j + 1) 0#32).toNat
        = accDelay ((buildTable t0 n).getD j 0#32).toNat (j + 1) := toNat_getD_buildTable_succ t0 hj
      _ ≤ ((buildTable t0 n).getD j 0#32).toNat := accDelay_le ..
      _ ≤ ((buildTable t0 n).getD i 0#32).toNat := ih (Nat.lt_of_succ_lt hj)

/-! ### Legality -/

theorem one_le_toNat_iff {w : Nat} (v : BitVec w) : 1 ≤ v.toNat ↔ v ≠ 0#w := by
  rw [Nat.one_le_iff_ne_zero, ne_eq, ne_eq, BitVec.toNat_eq, BitVec.toNat_zero]

/-- The clauses of 00_scope.md R7 with the bounds of R6 (log 4). -/
theorem legalConfig_iff (c : Config) :
    legalConfig c = true ↔
      (c.idxW = 8 ∨ c.idxW = 16) ∧ 1 ≤ c.rampLen ∧ c.rampLen ≤ 2 ^ c.idxW ∧
      (∀ t0, c.ramp = .built t0 → t0 ≠ 0#32) ∧ (configTable c).length = c.rampLen ∧
      (∀ i, i + 1 < c.rampLen → ((configTable c).getD (i + 1) 0#32).toNat ≤ ((configTable c).getD i 0#32).toNat) ∧
      c.signalLength ≠ 0#32 ∧ ∀ a, c.resolution.get a ≠ 0#32 := by
  have hsource : (match c.ramp with | .built t0 => decide (1 ≤ t0.toNat) | .supplied _ => true) = true ↔
      ∀ t0, c.ramp = .built t0 → t0 ≠ 0#32 := by
    cases c.ramp with
    | built t0 => simp [one_le_toNat_iff]
    | supplied entries => simp
  have horder (hlen : (configTable c).length = c.rampLen) : nonIncreasing (configTable c) = true ↔
      ∀ i, i + 1 < c.rampLen → ((configTable c).getD (i + 1) 0#32).toNat ≤ ((configTable c).getD i 0#32).toNat := by
    rw [nonIncreasing_iff, hlen]
  have hpositive : (1 ≤ c.signalLength.toNat ∧ 1 ≤ c.resolution.x.toNat ∧ 1 ≤ c.resolution.y.toNat ∧
      1 ≤ c.resolution.z.toNat) ↔ c.signalLength ≠ 0#32 ∧ ∀ a, c.resolution.get a ≠ 0#32 := by
    simp only [one_le_toNat_iff]
    exact and_congr_right fun _ =>
      ⟨fun ⟨hx, hy, hz⟩ a => by cases a <;> assumption, fun h => ⟨h .x, h .y, h .z⟩⟩
  simp only [legalConfig, Bool.and_eq_true, Bool.or_eq_true, beq_iff_eq, decide_eq_true_iff, and_assoc]
  constructor
  · rintro ⟨hidx, hlow, hhigh, hramp, hlen, hdown, hrest⟩
    exact ⟨hidx, hlow, hhigh, hsource.mp hramp, hlen, (horder hlen).mp hdown, hpositive.mp hrest⟩
  · rintro ⟨hidx, hlow, hhigh, hramp, hlen, hdown, hrest⟩
    exact ⟨hidx, hlow, hhigh, hsource.mpr hramp, hlen, (horder hlen).mpr hdown, hpositive.mpr hrest⟩

/-- The model's own choice of the OPEN values (log 1) is legal: its table is built, and a built table never rises. -/
theorem legalConfig_default : legalConfig Config.default = true := by
  refine (legalConfig_iff _).mpr ⟨.inl rfl, by decide, by decide, ?_, length_buildTable .., ?_, by decide, ?_⟩
  · rintro t0 hramp
    cases hramp
    decide
  · exact fun i hi => getD_buildTable_antitone 40#32 (Nat.le_succ i) hi
  · rintro (_ | _ | _) <;> decide

theorem step_eq_refused_of_reset {s : State} {c : Config} {rest : List HostInput} (hin : s.inbox = .reset c :: rest) :
    step s = .refused .illegalConfiguration ↔ ¬ legalConfig c = true := by
  by_cases hc : legalConfig c = true
  · simp [step_of_legal_reset hin hc, hc]
  · simp [step, hin, resetInput, hc]

end Sys2Proof.Machine

namespace Sys2Proof.Proofs

open Sys2Proof Sys2Proof.Machine

/-- Settles O11: the refusal is the negation of legality, clause by clause. -/
theorem illegalConfigurationGivesNoState : Obligations.IllegalConfigurationGivesNoState := by
  intro s c rest hin
  rw [step_eq_refused_of_reset hin, legalConfig_iff]

/-- Settles O14: each entry is `AccDelay` of the one before it, which does not rise. -/
theorem builtTableNeverRises : Obligations.BuiltTableNeverRises := fun t0 _ _ _ => getD_buildTable_antitone t0

end Sys2Proof.Proofs
end

section
/-! PROOF. What each instruction leaves unchanged: the commands (45_commands.md R204 to R218), POLL and ENQUEUE
(44_machine_ops.md R172, R173, R183), and the read-only table and configuration (10_state.md R28, R29). -/

namespace Sys2Proof.Machine

open Sys2Proof Sys2Proof.Claims

/-! ### What a single command writes -/

theorem moveCommand_keeps {g : Gathered} {speed newFeed : Word} {s t : State}
    (h : moveCommand g speed newFeed s = .ok t) : t.mode = s.mode ∧ t.homeOffset = s.homeOffset := by
  obtain ⟨tgt, -, ⟨-, rfl⟩ | ⟨-, -, -, rfl⟩⟩ := moveCommand_eq_ok h <;> exact ⟨rfl, rfl⟩

theorem cmdG0_eq_move (args : Slots) (s : State) :
    cmdG0 args s = moveCommand (gather args) (((gather args).f.map argToFeed).getD s.maxFeedRate)
      (((gather args).f.map argToFeed).getD s.feedRate) s := by
  cases hf : (gather args).f <;> simp [cmdG0, hf]

theorem cmdG1_eq_move (args : Slots) (s : State) :
    cmdG1 args s = moveCommand (gather args) (((gather args).f.map argToFeed).getD s.feedRate)
      (((gather args).f.map argToFeed).getD s.feedRate) s := by
  cases hf : (gather args).f <;> simp [cmdG1, hf]

theorem offsetAxis_writes {g : Gathered} {a : Axis} {s t : State} (h : offsetAxis g a s = .ok t) :
    t = { s with homeOffset := t.homeOffset } := by
  obtain ⟨-, rfl⟩ | ⟨_, -, -, rfl⟩ := offsetAxis_eq_ok h <;> rfl

theorem cmdG92_writes {args : Slots} {s t : State} (h : cmdG92 args s = .ok t) :
    t = { s with homeOffset := t.homeOffset } := by
  obtain ⟨sx, hx, h⟩ := bind_eq_ok.mp h
  obtain ⟨sy, hy, hz⟩ := bind_eq_ok.mp h
  rw [offsetAxis_writes hz, offsetAxis_writes hy, offsetAxis_writes hx]

/-! ### One axis over POLL and ENQUEUE -/

/-- What decoding does to one axis unit, whatever it decodes: the position stays, no pulse rises, and the unit's invariant
is kept (44_machine_ops.md R183, 10_state.md R37). -/
structure AxisUnit.SlowKeeps (u v : AxisUnit) : Prop where
  position : v.position = u.position
  pulse_low : u.pulseHigh = false → v.pulseHigh = false
  inv : ∀ n, u.Inv n → v.Inv n

theorem AxisUnit.SlowKeeps.refl (u : AxisUnit) : u.SlowKeeps u := ⟨rfl, id, fun _ => id⟩

theorem AxisUnit.SlowKeeps.trans {u v w : AxisUnit} (h : u.SlowKeeps v) (h' : v.SlowKeeps w) : u.SlowKeeps w :=
  ⟨h'.position.trans h.position, fun hlow => h'.pulse_low (h.pulse_low hlow), fun n hinv => h'.inv n (h.inv n hinv)⟩

/-- A unit set up for a new target starts at index 0, from rest, and points at the target (43_axis.md R150). -/
theorem AxisUnit.Inv.newTarget {n : Nat} {u : AxisUnit} (h : u.Inv n) (target : Word) (speed : Nat) :
    (newTargetUnit u target speed).Inv n :=
  ⟨Nat.zero_lt_of_lt h.accIndex_lt, Nat.zero_lt_of_lt h.accIndex_lt, nofun, fun _ => rfl⟩

theorem movedUnit_slowKeeps (speed : Word) (dist : Nat) (tgt : PerAxis Int) (a : Axis) (u : AxisUnit) :
    u.SlowKeeps (movedUnit speed dist tgt a u) := by
  unfold movedUnit
  split
  · exact .refl u
  · exact ⟨rfl, fun _ => rfl, fun _ hinv => hinv.newTarget ..⟩

/-! ### Edges while decoding -/

/-- `es` holds no step edge of an axis whose pulse is low. -/
def NoEdgeWhereLow (s : State) (es : List Effect) : Prop :=
  ∀ a, (s.axis a).pulseHigh = false → .stepRise a ∉ es ∧ .stepFall a ∉ es

theorem NoEdgeWhereLow.append {s : State} {es es' : List Effect} (h : NoEdgeWhereLow s es) (h' : NoEdgeWhereLow s es') :
    NoEdgeWhereLow s (es ++ es') := by
  intro a hlow
  obtain ⟨hrise, hfall⟩ := h a hlow
  obtain ⟨hrise', hfall'⟩ := h' a hlow
  simp [hrise, hfall, hrise', hfall']

theorem NoEdgeWhereLow.nil (s : State) : NoEdgeWhereLow s [] := fun _ _ => ⟨nofun, nofun⟩

/-- A new target lets fall only a pulse that is high, and raises none (43_axis.md R150). -/
theorem mem_newTargetEffects {a : Axis} {u : AxisUnit} {target : Word} {e : Effect}
    (h : e ∈ newTargetEffects a u target) : (e = .stepFall a ∧ u.pulseHigh = true) ∨ ∃ forward, e = .setDir a forward := by
  obtain hfall | hdir := List.mem_append.mp h
  · split at hfall
    next hpulse => exact .inl ⟨List.mem_singleton.mp hfall, hpulse⟩
    next => cases hfall
  · split at hdir
    next => cases hdir
    next => exact .inr ⟨_, List.mem_singleton.mp hdir⟩

theorem movedEffects_noEdgeWhereLow (tgt : PerAxis Int) (a : Axis) (s : State) :
    NoEdgeWhereLow s (movedEffects tgt a (s.axis a)) := by
  unfold movedEffects
  split
  · exact .nil s
  · refine fun b hlow => ⟨fun hrise => ?_, fun hfall => ?_⟩
    · obtain ⟨he, -⟩ | ⟨_, he⟩ := mem_newTargetEffects hrise <;> cases he
    · obtain ⟨he, hhigh⟩ | ⟨_, he⟩ := mem_newTargetEffects hfall <;> cases he
      exact absurd (hhigh.symm.trans hlow) (by decide)

/-! ### What POLL and ENQUEUE write -/

/-- What `t` may differ in from `s` by pushes, retirements, decoding and the answer (44_machine_ops.md R183). -/
structure SlowWrites (s t : State) : Prop where
  frame : t = { s with axes := t.axes, queue := t.queue, mode := t.mode, homeOffset := t.homeOffset, feedRate := t.feedRate,
                       effects := t.effects, rsp := t.rsp }
  axis : ∀ a, (s.axis a).SlowKeeps (t.axis a)
  edges : ∃ es, t.effects = s.effects ++ es ∧ NoEdgeWhereLow s es

/-- A write of the queue, the mode, the offsets, the feed rate or the answer. -/
theorem SlowWrites.of_axes_eq {s t : State}
    (hframe : t = { s with axes := t.axes, queue := t.queue, mode := t.mode, homeOffset := t.homeOffset,
                           feedRate := t.feedRate, effects := t.effects, rsp := t.rsp })
    (haxes : t.axes = s.axes) (heffects : t.effects = s.effects) : SlowWrites s t := by
  refine ⟨hframe, fun a => ?_, [], by simp [heffects], .nil s⟩
  rw [State.axis, State.axis, haxes]
  exact .refl _

theorem SlowWrites.refl (s : State) : SlowWrites s s := .of_axes_eq rfl rfl rfl

theorem SlowWrites.trans {s t u : State} (h : SlowWrites s t) (h' : SlowWrites t u) : SlowWrites s u := by
  obtain ⟨es, hes, hlow⟩ := h.edges
  obtain ⟨es', hes', hlow'⟩ := h'.edges
  refine ⟨h'.frame.trans (by rw [h.frame]), fun a => (h.axis a).trans (h'.axis a), es ++ es', ?_, hlow.append ?_⟩
  · rw [hes', hes, List.append_assoc]
  · exact fun a ha => hlow' a ((h.axis a).pulse_low ha)

theorem SlowWrites.push (s : State) (c : Bundle) : SlowWrites s (s.push c) := .of_axes_eq rfl rfl rfl

theorem SlowWrites.pop (s : State) : SlowWrites s s.pop := .of_axes_eq rfl rfl rfl

theorem SlowWrites.respond (s : State) (st : RspStatus) (consumed : Bool) (data : Word) :
    SlowWrites s (s.respond st consumed data) := .of_axes_eq rfl rfl rfl

theorem moveCommand_slowWrites {g : Gathered} {speed newFeed : Word} {s t : State}
    (h : moveCommand g speed newFeed s = .ok t) : SlowWrites s t := by
  obtain ⟨tgt, -, ⟨-, rfl⟩ | ⟨-, -, -, rfl⟩⟩ := moveCommand_eq_ok h
  · exact .of_axes_eq rfl rfl rfl
  · refine ⟨rfl, fun a => ?_, _, by simp only [movedState, List.append_assoc],
      (movedEffects_noEdgeWhereLow tgt .x s).append
        ((movedEffects_noEdgeWhereLow tgt .y s).append (movedEffects_noEdgeWhereLow tgt .z s))⟩
    cases a <;> exact movedUnit_slowKeeps ..

/-- An unrecognized command reports and writes nothing else (45_commands.md R218). -/
theorem cmdUnrecognized_slowWrites (mnem : BitVec 2) (major minor : BitVec 16) {s t : State}
    (h : cmdUnrecognized mnem major minor s = .ok t) : SlowWrites s t := by
  cases h
  exact ⟨rfl, fun a => .refl _, _, rfl, fun a _ => by simp⟩

theorem commandEffect_slowWrites {c : Command} {s t : State} (h : commandEffect c s = .ok t) : SlowWrites s t := by
  cases c with
  | g0 args =>
    rw [commandEffect, cmdG0_eq_move] at h
    exact moveCommand_slowWrites h
  | g1 args => exact moveCommand_slowWrites h
  | g20 => cases h
  | g21 => cases h; exact .refl s
  | g90 => cases h; exact .of_axes_eq rfl rfl rfl
  | g91 => cases h; exact .of_axes_eq rfl rfl rfl
  | g92 args =>
    have hwrites := cmdG92_writes h
    rw [hwrites]
    exact .of_axes_eq rfl rfl rfl
  | m30 => cases h; exact .of_axes_eq rfl rfl rfl
  | mOther major minor => cases h; exact .refl s
  | gUnrecognized major minor => exact cmdUnrecognized_slowWrites _ _ _ h
  | nUnrecognized major minor => exact cmdUnrecognized_slowWrites _ _ _ h
  | unknownUnrecognized major minor => exact cmdUnrecognized_slowWrites _ _ _ h

theorem decodeHead_slowWrites {s t : State} (h : decodeHead s = .ok t) : SlowWrites s t := by
  cases hqueue : s.queue with
  | nil =>
    rw [decodeHead_of_nil hqueue] at h
    cases h
    exact .refl s
  | cons c rest =>
    rw [decodeHead_of_cons hqueue] at h
    exact commandEffect_slowWrites h

theorem intake_slowWrites {c : Bundle} {s t : State} (h : intake c s = .ok t) : SlowWrites s t := by
  by_cases hqueue : s.queue = []
  · rw [intake_of_empty c hqueue] at h
    exact (SlowWrites.push s c).trans (decodeHead_slowWrites h)
  · rw [intake_of_head c hqueue] at h
    cases h
    exact .push s c

theorem pollIntake_slowWrites {offer : Option Bundle} {s t : State} (h : pollIntake offer s = .ok t) :
    SlowWrites s t := by
  obtain rfl | ⟨c, -, -, hintake⟩ := pollIntake_cases h
  · exact .refl _
  · exact intake_slowWrites hintake

theorem retire_slowWrites {s t : State} (h : retire s = .ok t) : SlowWrites s t := by
  unfold retire at h
  split at h
  · exact (SlowWrites.pop s).trans (decodeHead_slowWrites h)
  · cases h
    exact .refl s

theorem pollBody_slowWrites {offer : Option Bundle} {s t : State} (h : pollBody offer s = .ok t) : SlowWrites s t := by
  obtain ⟨u, v, hintake, hretire, rfl⟩ := pollBody_eq_ok h
  exact ((pollIntake_slowWrites hintake).trans (retire_slowWrites hretire)).trans (.respond ..)

theorem enqueueBody_slowWrites {c : Bundle} {s t : State} (h : enqueueBody c s = .ok t) : SlowWrites s t := by
  obtain ⟨-, rfl⟩ | ⟨-, u, hintake, rfl⟩ := enqueueBody_cases h
  · exact .respond ..
  · exact (intake_slowWrites hintake).trans (.respond ..)

/-! ### What any instruction leaves unchanged -/

/-- The table, the configuration and the inputs still to come are those of `s`. -/
structure SameConfig (s t : State) : Prop where
  table : t.table = s.table
  signalLength : t.signalLength = s.signalLength
  resolution : t.resolution = s.resolution
  defaultFeedRate : t.defaultFeedRate = s.defaultFeedRate
  maxFeedRate : t.maxFeedRate = s.maxFeedRate
  inbox : t.inbox = s.inbox

theorem SlowWrites.sameConfig {s t : State} (h : SlowWrites s t) : SameConfig s t := by
  rw [h.frame]
  exact ⟨rfl, rfl, rfl, rfl, rfl, rfl⟩

theorem stepMonitorOp_sameConfig {axis : Option Axis} {now : Time} {s t : State} (h : stepMonitorOp axis now s = .ok t) :
    SameConfig s t := by
  obtain ⟨u, hbody, hrespond⟩ := bind_eq_ok.mp h
  cases hrespond
  obtain rfl | ⟨a, -, -, hpoll⟩ := stepMonitorBody_cases hbody
  · exact ⟨rfl, rfl, rfl, rfl, rfl, rfl⟩
  · obtain ⟨v, es, rfl, -⟩ := axisPoll_frame hpoll
    exact ⟨rfl, rfl, rfl, rfl, rfl, rfl⟩

theorem WritingRequest.sameConfig {i : Instr} {body : State → Micro} {s t : State} (h : WritingRequest i body)
    (hok : body s = .ok t) : SameConfig s t := by
  cases h with
  | tick now =>
    have hmonitor := stepMonitorOp_sameConfig (s := s.setRrSlot (s.rrSlot + 1#2)) hok
    exact ⟨hmonitor.table, hmonitor.signalLength, hmonitor.resolution, hmonitor.defaultFeedRate, hmonitor.maxFeedRate,
      hmonitor.inbox⟩
  | stepMonitor axis now => exact stepMonitorOp_sameConfig hok
  | poll offer => exact (pollBody_slowWrites hok).sameConfig
  | enqueue c => exact (enqueueBody_slowWrites hok).sameConfig
  | reservedOp0 => cases hok
  | reservedOp7 => cases hok
  | reservedOpHigh low => cases hok

theorem exec_sameConfig {i : Instr} {s t : State} (h : exec i s = .next t) : SameConfig s t := by
  have hof_begin {u : State} (hu : SameConfig s.begin u) : SameConfig s u :=
    ⟨hu.table, hu.signalLength, hu.resolution, hu.defaultFeedRate, hu.maxFeedRate, hu.inbox⟩
  obtain ⟨c, rfl⟩ | ⟨value, hread⟩ | ⟨body, hwrite⟩ := instr_cases i
  · rw [execCommand_eq] at h
    obtain ⟨-, rfl⟩ | ⟨-, hok⟩ | ⟨-, cause, axis, -, rfl⟩ := runCommand_cases h
    · exact ⟨rfl, rfl, rfl, rfl, rfl, rfl⟩
    · exact hof_begin (commandEffect_slowWrites hok).sameConfig
    · exact ⟨rfl, rfl, rfl, rfl, rfl, rfl⟩
  · rw [hread.exec_eq] at h
    cases h
    exact ⟨rfl, rfl, rfl, rfl, rfl, rfl⟩
  · rw [hwrite.exec_eq] at h
    obtain ⟨-, rfl⟩ | ⟨-, hok⟩ | ⟨-, cause, axis, -, rfl⟩ := runRequest_cases h
    · exact ⟨rfl, rfl, rfl, rfl, rfl, rfl⟩
    · exact hof_begin (hwrite.sameConfig hok)
    · exact ⟨rfl, rfl, rfl, rfl, rfl, rfl⟩

/-! ### The outcomes that leave the block running -/

/-- A request that leaves the block running ran its body to its end in a running block. -/
theorem runRequest_running {s t : State} {body : State → Micro} (h : runRequest body s = .next t)
    (ht : t.halted = false) : s.halted = false ∧ body s.begin = .ok t := by
  obtain ⟨hs, rfl⟩ | hok | ⟨-, cause, axis, -, rfl⟩ := runRequest_cases h
  · exact absurd (hs.symm.trans ht) (by decide)
  · exact hok
  · exact absurd ht (by simp)

/-- A command that leaves the block running ran its effect to its end. -/
theorem runCommand_running {s t : State} {body : State → Micro} (h : runCommand body s = .next t)
    (ht : t.halted = false) : body s.begin = .ok t := by
  obtain ⟨hs, rfl⟩ | ⟨-, hok⟩ | ⟨-, cause, axis, -, rfl⟩ := runCommand_cases h
  · exact absurd (hs.symm.trans ht) (by decide)
  · exact hok
  · exact absurd ht (by simp)

end Sys2Proof.Machine

namespace Sys2Proof.Proofs

open Sys2Proof Sys2Proof.Machine Sys2Proof.Claims

/-- Settles O44: neither the body of a request nor a command's effect writes them, nor does a fault. -/
theorem tableAndConfigurationAreReadOnly : Obligations.TableAndConfigurationAreReadOnly := by
  intro i s t h
  obtain ⟨htable, hsignal, hresolution, hdefault, hmax, hinbox⟩ := exec_sameConfig h
  exact ⟨htable, hsignal, hresolution, hdefault, hmax, hinbox⟩

/-- Settles O55: the frame of every command, and the fields each of the twelve keeps. -/
theorem commandsWriteOnlyTheirState : Obligations.CommandsWriteOnlyTheirState := by
  rintro i s t ⟨c, rfl⟩ - h ht
  rw [execCommand_eq] at h
  have hok := runCommand_running h ht
  obtain ⟨es, hframe⟩ := commandEffect_writes hok
  refine ⟨by rw [hframe]; rfl, ?_⟩
  cases c with
  | g0 args =>
    rw [commandEffect, cmdG0_eq_move] at hok
    obtain ⟨hmode, hoffset⟩ := moveCommand_keeps hok
    exact ⟨fun _ => .inl ⟨args, rfl⟩, fun hne => absurd hmode hne, fun hne => absurd hoffset hne,
      fun _ => .inl ⟨args, rfl⟩, fun _ => .inl ⟨args, rfl⟩⟩
  | g1 args =>
    obtain ⟨hmode, hoffset⟩ := moveCommand_keeps hok
    exact ⟨fun _ => .inr ⟨args, rfl⟩, fun hne => absurd hmode hne, fun hne => absurd hoffset hne,
      fun _ => .inr (.inl ⟨args, rfl⟩), fun _ => .inr (.inl ⟨args, rfl⟩)⟩
  | g20 => cases hok
  | g21 => cases hok; exact ⟨absurd rfl, absurd rfl, absurd rfl, absurd rfl, absurd rfl⟩
  | g90 => cases hok; exact ⟨absurd rfl, fun _ => .inl rfl, absurd rfl, absurd rfl, absurd rfl⟩
  | g91 => cases hok; exact ⟨absurd rfl, fun _ => .inr rfl, absurd rfl, absurd rfl, absurd rfl⟩
  | g92 args =>
    have hwrites := cmdG92_writes hok
    rw [hwrites]
    exact ⟨absurd rfl, absurd rfl, fun _ => ⟨args, rfl⟩, absurd rfl, absurd rfl⟩
  | m30 => cases hok; exact ⟨absurd rfl, absurd rfl, absurd rfl, fun _ => .inr (.inr rfl), absurd rfl⟩
  | mOther major minor => cases hok; exact ⟨absurd rfl, absurd rfl, absurd rfl, absurd rfl, absurd rfl⟩
  | gUnrecognized major minor =>
    cases hok
    exact ⟨absurd rfl, absurd rfl, absurd rfl, absurd rfl, fun _ => .inr (.inr ⟨major, minor, .inl rfl⟩)⟩
  | nUnrecognized major minor =>
    cases hok
    exact ⟨absurd rfl, absurd rfl, absurd rfl, absurd rfl, fun _ => .inr (.inr ⟨major, minor, .inr (.inl rfl)⟩)⟩
  | unknownUnrecognized major minor =>
    cases hok
    exact ⟨absurd rfl, absurd rfl, absurd rfl, absurd rfl, fun _ => .inr (.inr ⟨major, minor, .inr (.inr rfl)⟩)⟩

/-- Settles O56: both operations are made of pushes, retirements, decodings and an answer, each of which keeps the rest. -/
theorem slowOperationsLeaveTheRest : Obligations.SlowOperationsLeaveTheRest := by
  intro i s t hi h ht
  have hwrites : SlowWrites s.begin t := by
    obtain ⟨offer, rfl⟩ | ⟨c, rfl⟩ := hi
    · exact pollBody_slowWrites (runRequest_running h ht).2
    · exact enqueueBody_slowWrites (runRequest_running h ht).2
  obtain ⟨es, hes, hlow⟩ := hwrites.edges
  have heffects : t.effects = es := hes
  exact ⟨hwrites.frame, fun a => (hwrites.axis a).position, fun a ha => heffects ▸ hlow a ha⟩

end Sys2Proof.Proofs
end

section
/-! PROOF. The invariant (10_state.md R37, 44_machine_ops.md R178): what writes keep it, that reset establishes it and every
step keeps it, and that no step from it reads the table outside its entries (40_ramp_table.md R105). -/

namespace Sys2Proof.Machine

open Sys2Proof Sys2Proof.Claims

/-! ### Writes that keep the invariant -/

/-- The invariant reads the table, the configuration, the axes, the queue and the fault record alone. -/
theorem State.Inv.of_agree {s t : State} (h : s.Inv) (htable : t.table = s.table)
    (hsignal : t.signalLength = s.signalLength) (hresolution : t.resolution = s.resolution) (haxes : t.axes = s.axes)
    (hqueue : t.queue = s.queue) (hfault : faultRecordLegal t.halted t.faultCause t.faultAxis = true) : t.Inv := by
  have haxis (a : Axis) : t.axis a = s.axis a := by rw [State.axis, State.axis, haxes]
  have hlen : t.rampLen = s.rampLen := by rw [State.rampLen, State.rampLen, htable]
  have htarget : t.allOnTarget = s.allOnTarget := by simp only [State.allOnTarget, State.onTarget, haxis]
  refine ⟨hlen ▸ h.table_length, htable ▸ h.table_nonIncreasing, hsignal ▸ h.signalLength_pos,
    hresolution ▸ h.resolution_pos, fun a => ?_, hqueue ▸ h.queue_length, fun hnil => ?_, hfault⟩
  · rw [haxis, hlen]
    exact h.axis_inv a
  · rw [htarget]
    exact h.idle_onTarget (hqueue ▸ hnil)

theorem State.Inv.begin {s : State} (h : s.Inv) : s.begin.Inv := h.of_agree rfl rfl rfl rfl rfl h.fault_record

theorem State.Inv.takeInput {s : State} (h : s.Inv) (rest : List HostInput) : (s.takeInput rest).Inv :=
  h.of_agree rfl rfl rfl rfl rfl h.fault_record

theorem State.Inv.respond {s : State} (h : s.Inv) (st : RspStatus) (consumed : Bool) (data : Word) :
    (s.respond st consumed data).Inv := h.of_agree rfl rfl rfl rfl rfl h.fault_record

theorem State.Inv.setRrSlot {s : State} (h : s.Inv) (slot : BitVec 2) : (s.setRrSlot slot).Inv :=
  h.of_agree rfl rfl rfl rfl rfl h.fault_record

theorem State.Inv.takeFault {s : State} (h : s.Inv) {cause : FaultCause} {axis : Option Axis}
    (hlegal : faultRecordLegal true cause axis = true) : (takeFault s cause axis).Inv :=
  h.of_agree rfl rfl rfl rfl rfl hlegal

/-- What POLL and ENQUEUE write keeps the invariant where it keeps the two clauses about the queue. -/
theorem State.Inv.of_slowWrites {s t : State} (h : s.Inv) (hwrites : SlowWrites s t) (hlen : t.queue.length ≤ 2)
    (hidle : t.queue = [] → t.allOnTarget = true) : t.Inv := by
  have haxis (a : Axis) : (t.axis a).Inv s.rampLen := (hwrites.axis a).inv _ (h.axis_inv a)
  obtain ⟨htable, hsignal, hresolution, -, -, -⟩ := hwrites.sameConfig
  have hrampLen : t.rampLen = s.rampLen := by rw [State.rampLen, State.rampLen, htable]
  refine ⟨hrampLen ▸ h.table_length, htable ▸ h.table_nonIncreasing, hsignal ▸ h.signalLength_pos,
    hresolution ▸ h.resolution_pos, fun a => hrampLen ▸ haxis a, hlen, hidle, ?_⟩
  rw [hwrites.frame]
  exact h.fault_record

/-! ### The queue operations (44_machine_ops.md R172, R173) -/

theorem CommandWrites.queue {s t : State} (h : CommandWrites s t) : t.queue = s.queue := by
  obtain ⟨_, h⟩ := h
  rw [h]

theorem intake_queue {c : Bundle} {s t : State} (h : intake c s = .ok t) : t.queue = s.queue ++ [c] :=
  (intake_writes h).queue

theorem intake_inv {c : Bundle} {s t : State} (hinv : s.Inv) (hroom : s.queue.length < 2) (h : intake c s = .ok t) :
    t.Inv := by
  have hqueue := intake_queue h
  refine hinv.of_slowWrites (intake_slowWrites h) ?_ fun hnil => ?_
  · simp [hqueue]
    omega
  · simp [hqueue] at hnil

theorem pollIntake_inv {offer : Option Bundle} {s t : State} (hinv : s.Inv) (h : pollIntake offer s = .ok t) : t.Inv := by
  obtain rfl | ⟨c, -, hroom, hintake⟩ := pollIntake_cases h
  · exact hinv
  · exact intake_inv hinv hroom hintake

/-- A retirement that empties the queue decodes nothing, so the axes stay on target. -/
theorem retire_inv {s t : State} (hinv : s.Inv) (h : retire s = .ok t) : t.Inv := by
  obtain rfl | ⟨hne, htarget, hwrites⟩ := retire_cases h
  · exact hinv
  have hqueue : t.queue = s.queue.drop 1 := hwrites.queue
  refine hinv.of_slowWrites (retire_slowWrites h) ?_ fun hnil => ?_
  · have := hinv.queue_length
    simp [hqueue]
    omega
  · rw [retire_of_onTarget hne htarget, decodeHead_of_nil (by rw [State.pop_queue, ← hqueue, hnil])] at h
    cases h
    exact htarget

theorem pollBody_inv {offer : Option Bundle} {s t : State} (hinv : s.Inv) (h : pollBody offer s = .ok t) : t.Inv := by
  obtain ⟨u, v, hintake, hretire, rfl⟩ := pollBody_eq_ok h
  exact (retire_inv (pollIntake_inv hinv hintake) hretire).respond ..

theorem enqueueBody_inv {c : Bundle} {s t : State} (hinv : s.Inv) (h : enqueueBody c s = .ok t) : t.Inv := by
  obtain ⟨-, rfl⟩ | ⟨hroom, u, hintake, rfl⟩ := enqueueBody_cases h
  · exact hinv.respond ..
  · exact (intake_inv hinv hroom hintake).respond ..

/-! ### The axis poll (43_axis.md R152) -/

/-- A time that is stored is not the idle value 0 (10_state.md R22). -/
theorem ofNat_time_ne_zero {t : Nat} (hpos : 0 < t) (hlt : t < 2 ^ 64) : BitVec.ofNat 64 t ≠ 0#64 := by
  intro h
  have := congrArg BitVec.toNat h
  rw [BitVec.toNat_ofNat, Nat.mod_eq_of_lt hlt, BitVec.toNat_zero] at this
  omega

/-- Scheduling changes nothing of a unit's invariant but the clause about a high pulse. -/
theorem AxisUnit.Inv.reschedule {n : Nat} {u : AxisUnit} (h : u.Inv n) (pulse : Bool) (time : Time)
    (hpulse : pulse = true → time ≠ 0#64) : AxisUnit.Inv n { u with pulseHigh := pulse, nextEventTime := time } :=
  ⟨h.accIndex_lt, h.accIndexFloor_lt, hpulse, h.direction_points⟩

theorem rampNext_pulseHigh {a : Axis} {s t : State} {r : Option Word} (h : rampNext a s = .ok (r, t)) :
    (t.axis a).pulseHigh = (s.axis a).pulseHigh := by
  obtain ⟨-, -, rfl⟩ | ⟨-, d, k, -, rfl, -⟩ := rampNext_cases h
  · rfl
  · rw [State.axis_setAxis_same]; rfl

/-- `RampNext` keeps the unit's invariant (41_axis_ramp.md R113, R115). -/
theorem rampNext_unit_inv {a : Axis} {s t : State} {r : Option Word} (hinv : (s.axis a).Inv s.rampLen)
    (h : rampNext a s = .ok (r, t)) : (t.axis a).Inv s.rampLen := by
  obtain ⟨-, -, rfl⟩ | ⟨hoff, d, k, -, rfl, hpolicy⟩ := rampNext_cases h
  · exact hinv
  have hlt := hinv.accIndex_lt
  have hk : k < s.rampLen := by
    obtain ⟨-, rfl, -⟩ | ⟨-, rfl, -⟩ | ⟨-, rfl, -⟩ := hpolicy <;> omega
  rw [State.axis_setAxis_same]
  exact hinv.advance hoff hk

theorem prime_unit_inv {a : Axis} {now : Time} {s t : State} (hinv : (s.axis a).Inv s.rampLen)
    (hidle : (s.axis a).nextEventTime = 0#64) (h : prime a now s = .ok t) : (t.axis a).Inv s.rampLen := by
  have hlow : (s.axis a).pulseHigh = false := Bool.eq_false_iff.mpr fun hhigh => hinv.pulse_scheduled hhigh hidle
  obtain ⟨r, u, hr, ⟨d, -, -, rfl⟩ | ⟨-, rfl⟩⟩ := prime_eq_ok h
  · have hpulse := (rampNext_pulseHigh hr).trans hlow
    rw [State.axis_setAxis_same]
    exact (rampNext_unit_inv hinv hr).reschedule _ _ fun hhigh => absurd (hpulse.symm.trans hhigh) (by decide)
  · exact rampNext_unit_inv hinv hr

theorem schedFall_unit_inv {a : Axis} {now : Time} {s t : State} (hinv : (s.axis a).Inv s.rampLen)
    (h : schedFall a now s = .ok t) : (t.axis a).Inv s.rampLen := by
  obtain ⟨r, u, hr, hcases⟩ := schedFall_eq_ok h
  have hlow : ((s.setPulse a false).emit (.stepFall a)).axis a = { s.axis a with pulseHigh := false } := by
    simp [State.setPulse]
  have hinvLow : (((s.setPulse a false).emit (.stepFall a)).axis a).Inv s.rampLen := by
    rw [hlow]
    exact hinv.reschedule false _ nofun
  have hunit : (u.axis a).Inv s.rampLen := rampNext_unit_inv (s := (s.setPulse a false).emit (.stepFall a)) hinvLow hr
  have hpulseLow : (u.axis a).pulseHigh = false := by rw [rampNext_pulseHigh hr, hlow]
  have hany (time : Time) : AxisUnit.Inv s.rampLen { u.axis a with nextEventTime := time } :=
    hunit.reschedule _ _ fun hhigh => absurd (hpulseLow.symm.trans hhigh) (by decide)
  obtain ⟨d, -, -, rfl⟩ | ⟨-, rfl⟩ := hcases
  · rw [State.axis_setAxis_same]
    exact hany _
  · rw [State.setIdle, State.axis_setAxis_same]
    exact hany _

theorem schedRise_unit_inv {a : Axis} {now : Time} {s t : State} (hinv : (s.axis a).Inv s.rampLen)
    (hsignal : 1 ≤ s.signalLength.toNat) (h : schedRise a now s = .ok t) : (t.axis a).Inv s.rampLen := by
  obtain ⟨hlt, hok⟩ | ⟨-, herror⟩ := schedRise_cases a now s
  · rw [hok] at h
    cases h
    rw [State.axis_emit, State.axis_setAxis_same]
    exact hinv.reschedule true _ fun _ => ofNat_time_ne_zero (by omega) hlt
  · rw [herror] at h
    cases h

theorem axisPoll_unit_inv {a : Axis} {now : Time} {s t : State} (hinv : (s.axis a).Inv s.rampLen)
    (hsignal : 1 ≤ s.signalLength.toNat) (h : axisPoll a now s = .ok t) : (t.axis a).Inv s.rampLen := by
  obtain ⟨-, rfl⟩ | ⟨-, hidle, h⟩ | ⟨-, -, -, rfl⟩ | ⟨-, -, -, -, h⟩ | ⟨-, -, -, -, h⟩ := axisPoll_cases h
  · exact hinv
  · exact prime_unit_inv hinv hidle h
  · exact hinv
  · exact schedFall_unit_inv hinv h
  · exact schedRise_unit_inv hinv hsignal h

theorem stepMonitorBody_inv {axis : Option Axis} {now : Time} {s t : State} (hinv : s.Inv)
    (h : stepMonitorBody axis now s = .ok t) : t.Inv := by
  obtain rfl | ⟨a, -, hexecuting, hpoll⟩ := stepMonitorBody_cases h
  · exact hinv
  have hunit := axisPoll_unit_inv (hinv.axis_inv a) hinv.signalLength_pos hpoll
  obtain ⟨u, es, rfl, -⟩ := axisPoll_frame hpoll
  have hu : u.Inv s.rampLen := by
    have hsame : ({ s.setAxis a u with effects := s.effects ++ es } : State).axis a = u := State.axis_setAxis_same ..
    rwa [hsame] at hunit
  refine ⟨hinv.table_length, hinv.table_nonIncreasing, hinv.signalLength_pos, hinv.resolution_pos, fun b => ?_,
    hinv.queue_length, fun hnil => absurd hnil (executing_iff.mp hexecuting), hinv.fault_record⟩
  change ((s.setAxis a u).axis b).Inv s.rampLen
  rw [State.axis_setAxis]
  split
  · exact hu
  · exact hinv.axis_inv b

theorem stepMonitorOp_inv {axis : Option Axis} {now : Time} {s t : State} (hinv : s.Inv)
    (h : stepMonitorOp axis now s = .ok t) : t.Inv := by
  obtain ⟨u, hbody, hrespond⟩ := bind_eq_ok.mp h
  cases hrespond
  exact (stepMonitorBody_inv hinv hbody).respond ..

/-! ### A step from a state that meets the invariant -/

theorem WritingRequest.inv {i : Instr} {body : State → Micro} {s t : State} (h : WritingRequest i body) (hinv : s.Inv)
    (hok : body s = .ok t) : t.Inv := by
  cases h with
  | tick now => exact stepMonitorOp_inv (hinv.setRrSlot (s.rrSlot + 1#2)) hok
  | stepMonitor axis now => exact stepMonitorOp_inv hinv hok
  | poll offer => exact pollBody_inv hinv hok
  | enqueue c => exact enqueueBody_inv hinv hok
  | reservedOp0 => cases hok
  | reservedOp7 => cases hok
  | reservedOpHigh low => cases hok

/-- The indices are valid, so the poll reads an entry of the table (40_ramp_table.md R105). -/
theorem stepMonitorOp_ne_outside {axis : Option Axis} {now : Time} {s : State} {f : Fault} (hinv : s.Inv) :
    stepMonitorOp axis now s ≠ .error (.outside f) := by
  intro h
  obtain hbody | ⟨u, -, hrespond⟩ := bind_eq_error.mp h
  · obtain ⟨a, -, hpoll⟩ := stepMonitorBody_error hbody
    obtain hraised | ⟨hoverrun, -⟩ := axisPoll_error hpoll
    · cases hraised
    · have := (hinv.axis_inv a).accIndex_lt
      omega
  · cases hrespond

theorem WritingRequest.ne_outside {i : Instr} {body : State → Micro} {s : State} {f : Fault} (h : WritingRequest i body)
    (hinv : s.Inv) : body s ≠ .error (.outside f) := by
  cases h with
  | tick now => exact stepMonitorOp_ne_outside (hinv.setRrSlot (s.rrSlot + 1#2))
  | stepMonitor axis now => exact stepMonitorOp_ne_outside hinv
  | poll offer => exact fun herror => by obtain ⟨_, _, hraised, -⟩ := pollBody_error herror; cases hraised
  | enqueue c => exact fun herror => by obtain ⟨_, _, hraised, -⟩ := enqueueBody_error herror; cases hraised
  | reservedOp0 => nofun
  | reservedOp7 => nofun
  | reservedOpHigh low => nofun

/-- A request word carries no command row: those reach the block through the queue (30_encoding.md R70, R72). -/
theorem fetchInstr_request {r : ReqWord} {cmd : Option Bundle} {i : Instr} (h : fetchInstr r cmd = .ok i) :
    (∃ value, ReadRequest i value) ∨ ∃ body, WritingRequest i body := by
  have hdec : decodeReq r cmd = .ok i := by
    unfold fetchInstr at h
    split at h
    next hdec => cases h; exact hdec
    next => cases h
  rcases op_cases r with hop | hop | hop | hop | hop | hop | hop | hop | hop
  · rw [decodeReq_of_op_zero cmd hop] at hdec; cases hdec; exact .inr ⟨_, .reservedOp0⟩
  · rw [decodeReq_of_op_one cmd hop] at hdec; cases hdec; exact .inr ⟨_, .tick _⟩
  · rw [decodeReq_of_op_two cmd hop] at hdec; cases hdec; exact .inr ⟨_, .stepMonitor _ _⟩
  · rw [decodeReq_of_op_three cmd hop] at hdec; cases hdec; exact .inr ⟨_, .poll _⟩
  · cases cmd with
    | none => rw [decodeReq_of_op_four_none hop] at hdec; cases hdec
    | some c => rw [decodeReq_of_op_four_some c hop] at hdec; cases hdec; exact .inr ⟨_, .enqueue _⟩
  · rw [decodeReq_of_op_five cmd hop] at hdec; cases hdec; exact .inl ⟨_, .readReg _⟩
  · rw [decodeReq_of_op_six cmd hop] at hdec; cases hdec; exact .inl ⟨_, .readTable _⟩
  · rw [decodeReq_of_op_seven cmd hop] at hdec; cases hdec; exact .inr ⟨_, .reservedOp7⟩
  · rw [decodeReq_of_op_high cmd hop] at hdec; cases hdec; exact .inr ⟨_, .reservedOpHigh _⟩

theorem exec_request_inv {i : Instr} {s t : State} (hi : (∃ value, ReadRequest i value) ∨ ∃ body, WritingRequest i body)
    (hinv : s.Inv) (h : exec i s = .next t) : t.Inv := by
  obtain ⟨value, hread⟩ | ⟨body, hwrite⟩ := hi
  · rw [hread.exec_eq] at h
    cases h
    exact hinv.begin.respond ..
  · rw [hwrite.exec_eq] at h
    obtain ⟨-, rfl⟩ | ⟨-, hok⟩ | ⟨-, cause, axis, hraised, rfl⟩ := runRequest_cases h
    · exact hinv.begin.respond ..
    · exact hwrite.inv hinv.begin hok
    · exact hinv.begin.takeFault (hwrite.raised_legal hraised)

theorem exec_request_ne_fault {i : Instr} {s : State} {f : Fault}
    (hi : (∃ value, ReadRequest i value) ∨ ∃ body, WritingRequest i body) (hinv : s.Inv) : exec i s ≠ .fault f := by
  obtain ⟨value, hread⟩ | ⟨body, hwrite⟩ := hi
  · rw [hread.exec_eq]
    nofun
  · rw [hwrite.exec_eq]
    cases hs : s.halted with
    | true => rw [runRequest_of_halted hs]; nofun
    | false =>
      rw [runRequest_of_running hs, ne_eq, commit_eq_fault]
      exact hwrite.ne_outside hinv.begin

/-! ### Reset and the reachable states -/

theorem AxisUnit.reset_inv {n : Nat} (h : 0 < n) : AxisUnit.reset.Inv n :=
  ⟨h, h, nofun, fun hne => absurd rfl hne⟩

/-- Reset with a legal configuration establishes the invariant (10_state.md R36, R37). -/
theorem State.Inv.ofConfig {c : Config} (h : legalConfig c = true) : (State.ofConfig c).Inv := by
  obtain ⟨hidx, hlow, hhigh, -, hlen, hdown, hsignal, hresolution⟩ := (legalConfig_iff c).mp h
  have hrampLen : (State.ofConfig c).rampLen = c.rampLen := hlen
  have hmax : c.rampLen ≤ 65536 := hhigh.trans (by obtain hidx | hidx := hidx <;> rw [hidx] <;> norm_num)
  refine ⟨hrampLen ▸ ⟨hlow, hmax⟩, (nonIncreasing_iff _).mpr (hlen ▸ hdown), (one_le_toNat_iff _).mpr hsignal,
    fun a => (one_le_toNat_iff _).mpr (hresolution a), fun a => ?_, Nat.zero_le 2, fun _ => rfl, rfl⟩
  rw [State.axis_ofConfig, hrampLen]
  exact AxisUnit.reset_inv hlow

theorem State.Inv.step {s t : State} (hinv : s.Inv) (h : step s = .next t) : t.Inv := by
  obtain ⟨-, rfl⟩ | ⟨c, rest, -, hreset⟩ | ⟨r, cmd, rest, i, -, hfetch, hexec⟩ := step_cases h
  · exact hinv
  · unfold resetInput at hreset
    split at hreset
    next hlegal => cases hreset; exact (State.Inv.ofConfig hlegal).takeInput rest
    next => cases hreset
  · exact exec_request_inv (fetchInstr_request hfetch) (hinv.takeInput rest) hexec

theorem State.Inv.safeStep {s : State} (hinv : s.Inv) : safeStep s := by
  intro f h
  unfold Machine.step at h
  split at h
  next => cases h
  next => split at h <;> cases h
  next r cmd rest hin =>
    split at h
    next i hfetch => exact exec_request_ne_fault (fetchInstr_request hfetch) (hinv.takeInput rest) h
    next => cases h

theorem Reachable.inv {s : State} (h : Reachable s) : s.Inv := by
  induction h with
  | reset c hlegal => exact .ofConfig hlegal
  | offer s inputs _ ih => exact ih.takeInput inputs
  | step s t _ hstep ih => exact ih.step hstep

end Sys2Proof.Machine

namespace Sys2Proof.Proofs

open Sys2Proof Sys2Proof.Machine

/-- Settles O57: a step keeps the state, resets it, or runs a request, whose body, answer and fault each keep the
invariant. -/
theorem everyStepKeepsTheInvariant : Obligations.EveryStepKeepsTheInvariant := fun _ _ hinv => hinv.step

/-- Settles O58: the configuration is legal, and a legal one establishes the invariant. -/
theorem resetMeetsTheInvariant : Obligations.ResetMeetsTheInvariant := ⟨.ofConfig legalConfig_default, legalConfig_default⟩

/-- Settles O59: the invariant holds along every run, and it keeps the poll's index below N. -/
theorem reachableStepsAreSafe : Obligations.ReachableStepsAreSafe := fun _ hreach => ⟨hreach.inv, hreach.inv.safeStep⟩

end Sys2Proof.Proofs
end

section
/-! PROOF. A whole move of the ramp (41_axis_ramp.md R110, R118, R119): one delay for each step of the way, and, with floor 0
and an even distance, the same delays in either direction. -/

namespace Sys2Proof.Machine

open Sys2Proof

/-! ### Signs and distances -/

theorem signOf_toInt (v : Int) : (signOf v).toInt = v.sign := by
  rcases lt_trichotomy v 0 with hv | rfl | hv
  · rw [signOf_of_neg hv, Int.sign_eq_neg_one_of_neg hv]
    rfl
  · rfl
  · rw [signOf_of_pos hv, Int.sign_eq_one_of_pos hv]
    rfl

/-- One step along the sign takes one off the distance. -/
theorem natAbs_sub_signOf {v : Int} (h : v ≠ 0) : (v - (signOf v).toInt).natAbs + 1 = v.natAbs := by
  rw [signOf_toInt]
  rcases lt_or_gt_of_ne h with hv | hv
  · rw [Int.sign_eq_neg_one_of_neg hv]
    omega
  · rw [Int.sign_eq_one_of_pos hv]
    omega

theorem AxisUnit.position_eq_target_iff (u : AxisUnit) : u.position = u.target ↔ u.remaining = 0 := by
  rw [AxisUnit.remaining, Int.natAbs_eq_zero, AxisUnit.displacement]
  refine ⟨fun h => by rw [h, sub_self], fun h => ?_⟩
  by_contra hne
  exact toInt_ne_of_ne hne (by omega)

/-! ### The ramp's own part of a unit's invariant -/

/-- The invariant of a unit whatever its step pin shows, which the ramp does not read. -/
def AxisUnit.RampInv (n : Nat) (u : AxisUnit) : Prop := AxisUnit.Inv n { u with pulseHigh := false }

theorem AxisUnit.RampInv.advance {n k : Nat} {u : AxisUnit} (h : u.RampInv n) (hne : u.position ≠ u.target) (hk : k < n) :
    AxisUnit.RampInv n { u.advance with accIndex := k } :=
  AxisUnit.Inv.advance (u := { u with pulseHigh := false }) h hne hk

theorem floorIndex_lt {table : List Word} (h : table ≠ []) (x : Word) : floorIndex table x < table.length := by
  have hlen := List.length_pos_iff.mpr h
  obtain ⟨hlt, -⟩ | ⟨hlast, -⟩ := floorIndex_cases table x
  · exact hlt
  · omega

theorem rampSetTarget_axis (a : Axis) (target cruise : Word) (arrival : Option Word) (s : State) :
    (rampSetTarget a target cruise arrival s).axis a = (s.axis a).rampSetTarget s.table target cruise arrival :=
  State.axis_setAxis_same ..

/-- `RampSetTarget` starts at index 0 and points at the target (41_axis_ramp.md R110). -/
theorem rampSetTarget_rampInv {s : State} (h : s.table ≠ []) (a : Axis) (target cruise : Word) (arrival : Option Word) :
    ((rampSetTarget a target cruise arrival s).axis a).RampInv s.rampLen := by
  have hlen : 0 < s.rampLen := List.length_pos_iff.mpr h
  rw [rampSetTarget_axis]
  refine ⟨hlen, ?_, nofun, fun _ => rfl⟩
  cases arrival with
  | none => exact hlen
  | some x => exact floorIndex_lt h x

theorem rampSetTarget_remaining (a : Axis) (target cruise : Word) (arrival : Option Word) (s : State) :
    ((rampSetTarget a target cruise arrival s).axis a).remaining = (target.toInt - (s.axis a).position.toInt).natAbs := by
  rw [rampSetTarget_axis]
  rfl

/-- Off the target the step taken brings the unit one nearer (41_axis_ramp.md R113). -/
theorem AxisUnit.RampInv.advance_remaining {n : Nat} {u : AxisUnit} (h : u.RampInv n) (hne : u.position ≠ u.target) :
    u.advance.position.toInt = u.position.toInt + u.direction.toInt ∧ u.advance.remaining + 1 = u.remaining := by
  have hpoints : u.direction = signOf u.displacement := h.direction_points hne
  obtain ⟨hposition, hdisplacement, hnonzero⟩ := advance_of_points hne hpoints
  refine ⟨hposition, ?_⟩
  rw [AxisUnit.remaining, hdisplacement, hpoints, natAbs_sub_signOf hnonzero, AxisUnit.remaining]

/-! ### One delay for each step -/

theorem rampDelays_succ {a : Axis} {m : Nat} {s t u : State} {d : Word} {ds : List Word}
    (hnext : rampNext a s = .ok (some d, t)) (hrest : rampDelays a m t = .ok (ds, u)) :
    rampDelays a (m + 1) s = .ok (d :: ds, u) := by
  rw [rampDelays, hnext, ok_bind, hrest]
  rfl

theorem rampDelays_of_le {a : Axis} {m : Nat} {s : State} (hinv : (s.axis a).RampInv s.rampLen)
    (hm : m ≤ (s.axis a).remaining) :
    ∃ ds t, rampDelays a m s = .ok (ds, t) ∧ ds.length = m ∧
      (t.axis a).position.toInt = (s.axis a).position.toInt + m * (s.axis a).direction.toInt ∧
      (t.axis a).target = (s.axis a).target ∧ (t.axis a).remaining + m = (s.axis a).remaining := by
  induction m generalizing s with
  | zero => exact ⟨[], s, rfl, rfl, by simp, rfl, rfl⟩
  | succ m ih =>
    have hoff : (s.axis a).position ≠ (s.axis a).target := by
      rw [ne_eq, AxisUnit.position_eq_target_iff]
      omega
    obtain ⟨d, k, hk, hnext⟩ := rampNext_of_valid hoff hinv.accIndex_lt
    obtain ⟨hposition, hremaining⟩ := hinv.advance_remaining hoff
    have hunit := s.axis_setAxis_same a { (s.axis a).advance with accIndex := k }
    generalize hs' : s.setAxis a { (s.axis a).advance with accIndex := k } = s' at hnext hunit
    have hlen : s'.rampLen = s.rampLen := hs' ▸ rfl
    have hposition' : (s'.axis a).position.toInt = (s.axis a).position.toInt + (s.axis a).direction.toInt := by
      rw [hunit]; exact hposition
    have hremaining' : (s'.axis a).remaining + 1 = (s.axis a).remaining := by rw [hunit]; exact hremaining
    have hdirection : (s'.axis a).direction = (s.axis a).direction := by rw [hunit]; rfl
    have htarget : (s'.axis a).target = (s.axis a).target := by rw [hunit]; rfl
    obtain ⟨ds, t, hdelays, hlength, hend, htarget', hleft⟩ :=
      ih (s := s') (by rw [hunit, hlen]; exact hinv.advance hoff hk) (by omega)
    refine ⟨d :: ds, t, rampDelays_succ hnext hdelays, by simp [hlength], ?_, htarget'.trans htarget, by omega⟩
    rw [hend, hposition', hdirection]
    push_cast
    ring

/-! ### The delays of an even move (41_axis_ramp.md R119) -/

/-- The delay at index `k` while no deceleration is due (41_axis_ramp.md R114). -/
def delayAtIndex (table : List Word) (cruise : Word) (k : Nat) : Word :=
  if (table.getD k 0#32).toNat ≤ cruise.toNat then cruise else table.getD k 0#32

/-- The index before step `j` of a move of `n` steps: it counts the steps from the start up to `cap`, the first index that
reaches the cruise delay, and down to the end. -/
def stepIndex (n cap j : Nat) : Nat := min (min j cap) (n - j)

/-- The index whose delay step `j` takes, the same from either end of the move. -/
def stepPlace (n cap j : Nat) : Nat := min (min j (n - 1 - j)) cap

section StepIndex
variable {n cap j : Nat}

theorem stepIndex_of_near_end (hj : j < n) (h : n - j ≤ stepIndex n cap j) :
    stepPlace n cap j = stepIndex n cap j - 1 ∧ stepIndex n cap j - 1 < cap ∧
      stepIndex n cap (j + 1) = stepIndex n cap j - 1 := by
  simp only [stepIndex, stepPlace] at *
  omega

theorem stepIndex_of_capped (h : stepIndex n cap j < n - j) (hcap : stepIndex n cap j = cap) :
    stepPlace n cap j = stepIndex n cap j ∧ stepIndex n cap (j + 1) = stepIndex n cap j := by
  simp only [stepIndex, stepPlace] at *
  omega

/-- Here the parity counts: a rise past the middle would leave the index one above the steps left. -/
theorem stepIndex_of_rising (heven : 2 ∣ n) (h : stepIndex n cap j < n - j) (hcap : stepIndex n cap j < cap) :
    stepPlace n cap j = stepIndex n cap j ∧ stepIndex n cap (j + 1) = stepIndex n cap j + 1 := by
  simp only [stepIndex, stepPlace] at *
  omega

theorem stepIndex_le_cap : stepIndex n cap j ≤ cap := (min_le_left ..).trans (min_le_right ..)

theorem stepPlace_mirror (hj : j < n) : stepPlace n cap (n - 1 - j) = stepPlace n cap j := by
  simp only [stepPlace]
  omega

end StepIndex

/-- The delay of step `j` of a move of `n` steps with floor 0. -/
def evenMoveDelay (table : List Word) (cruise : Word) (n j : Nat) : Word :=
  delayAtIndex table cruise (stepPlace n (floorIndex table cruise) j)

/-- A unit about to take step `j` of a move of `n` steps with floor 0. -/
structure AxisUnit.AtStep (table : List Word) (cruise : Word) (n j : Nat) (u : AxisUnit) : Prop where
  inv : u.RampInv table.length
  floor : u.accIndexFloor = 0
  cruiseDelay : u.cruiseDelay = cruise
  index : u.accIndex = stepIndex n (floorIndex table cruise) j
  remaining : u.remaining = n - j

theorem delayAtIndex_of_above {table : List Word} {cruise d : Word} {k : Nat} (hd : table[k]? = some d)
    (h : cruise.toNat < d.toNat) : delayAtIndex table cruise k = d := by
  have hget : table.getD k 0#32 = d := by rw [List.getD_eq_getElem?_getD, hd, Option.getD_some]
  rw [delayAtIndex, hget, if_neg h.not_ge]

theorem delayAtIndex_of_reached {table : List Word} {cruise d : Word} {k : Nat} (hd : table[k]? = some d)
    (h : d.toNat ≤ cruise.toNat) : delayAtIndex table cruise k = cruise := by
  have hget : table.getD k 0#32 = d := by rw [List.getD_eq_getElem?_getD, hd, Option.getD_some]
  rw [delayAtIndex, hget, if_pos h]

theorem floorIndex_above {table : List Word} {cruise d : Word} {k : Nat} (hd : table[k]? = some d)
    (hk : k < floorIndex table cruise) : cruise.toNat < d.toNat := by
  have hget : table.getD k 0#32 = d := by rw [List.getD_eq_getElem?_getD, hd, Option.getD_some]
  rw [← hget]
  obtain ⟨-, -, hbefore⟩ | ⟨hlast, habove⟩ := floorIndex_cases table cruise
  · exact hbefore k hk
  · exact habove k (by omega)

theorem floorIndex_last_of_above {table : List Word} {cruise d : Word}
    (hd : table[floorIndex table cruise]? = some d) (h : cruise.toNat < d.toNat) :
    floorIndex table cruise = table.length - 1 := by
  have hget : table.getD (floorIndex table cruise) 0#32 = d := by
    rw [List.getD_eq_getElem?_getD, hd, Option.getD_some]
  obtain ⟨-, hle, -⟩ | ⟨hlast, -⟩ := floorIndex_cases table cruise
  · rw [hget] at hle
    omega
  · exact hlast

section Policies
variable {table : List Word} {cruise d : Word} {n j i : Nat} (hi : stepIndex n (floorIndex table cruise) j = i)
include hi

theorem evenMove_near_end (hj : j < n) (hnear : n - j ≤ i) (hread : table[i - 1]? = some d) :
    evenMoveDelay table cruise n j = d ∧ stepIndex n (floorIndex table cruise) (j + 1) = i - 1 := by
  subst hi
  obtain ⟨hplace, hbelow, hnext⟩ := stepIndex_of_near_end hj hnear
  rw [evenMoveDelay, hplace]
  exact ⟨delayAtIndex_of_above hread (floorIndex_above hread hbelow), hnext⟩

theorem evenMove_cruising (hfar : i < n - j) (hread : table[i]? = some d) (hle : d.toNat ≤ cruise.toNat) :
    evenMoveDelay table cruise n j = cruise ∧ stepIndex n (floorIndex table cruise) (j + 1) = i := by
  subst hi
  have hcapped : stepIndex n (floorIndex table cruise) j = floorIndex table cruise :=
    stepIndex_le_cap.eq_of_not_lt fun hbelow => (floorIndex_above hread hbelow).not_ge hle
  obtain ⟨hplace, hnext⟩ := stepIndex_of_capped hfar hcapped
  rw [evenMoveDelay, hplace]
  exact ⟨delayAtIndex_of_reached hread hle, hnext⟩

theorem evenMove_accelerating (heven : 2 ∣ n) (hfar : i < n - j) (hread : table[i]? = some d)
    (hlt : cruise.toNat < d.toNat) :
    evenMoveDelay table cruise n j = d ∧
      stepIndex n (floorIndex table cruise) (j + 1) = min (i + 1) (table.length - 1) := by
  subst hi
  have hcap : floorIndex table cruise < table.length :=
    floorIndex_lt (List.ne_nil_of_length_pos (Nat.zero_lt_of_lt (List.getElem?_eq_some_iff.mp hread).1)) cruise
  obtain hbelow | hcapped := stepIndex_le_cap.lt_or_eq
  · obtain ⟨hplace, hnext⟩ := stepIndex_of_rising heven hfar hbelow
    rw [evenMoveDelay, hplace, hnext]
    exact ⟨delayAtIndex_of_above hread hlt, by omega⟩
  · obtain ⟨hplace, hnext⟩ := stepIndex_of_capped hfar hcapped
    have hlast : floorIndex table cruise = table.length - 1 := floorIndex_last_of_above (hcapped ▸ hread) hlt
    rw [evenMoveDelay, hplace, hnext]
    exact ⟨delayAtIndex_of_above hread hlt, by omega⟩

end Policies

/-- Each step of an even move takes the delay of its distance to the nearer end. -/
theorem rampNext_of_atStep {a : Axis} {s : State} {cruise : Word} {n j : Nat} (heven : 2 ∣ n) (hj : j < n)
    (h : (s.axis a).AtStep s.table cruise n j) :
    ∃ t, rampNext a s = .ok (some (evenMoveDelay s.table cruise n j), t) ∧ t.table = s.table ∧
      (t.axis a).AtStep s.table cruise n (j + 1) := by
  have hremaining := h.remaining
  have hoff : (s.axis a).position ≠ (s.axis a).target := by
    rw [ne_eq, AxisUnit.position_eq_target_iff]
    omega
  have hnear : (s.axis a).advance.remaining = n - (j + 1) := by
    have := (h.inv.advance_remaining hoff).2
    omega
  have htest : (s.axis a).advance.mustDecelerate = true ↔ n - j ≤ (s.axis a).accIndex := by
    have hadvance : (s.axis a).advance.accIndex = (s.axis a).accIndex := rfl
    have hfloor : (s.axis a).advance.accIndexFloor = 0 := h.floor
    rw [AxisUnit.mustDecelerate, decide_eq_true_iff, hnear, hadvance, hfloor]
    omega
  obtain ⟨_, _, -, hnext⟩ := rampNext_of_valid hoff h.inv.accIndex_lt
  obtain ⟨hon, -⟩ | ⟨-, d, k, hd, hunit, hpolicy⟩ := rampNext_cases hnext
  · exact absurd hon hoff
  have hlt := h.inv.accIndex_lt
  have hstep : (evenMoveDelay s.table cruise n j = d ∧ stepIndex n (floorIndex s.table cruise) (j + 1) = k) ∧
      k < s.table.length := by
    have hfar (hdec : (s.axis a).advance.mustDecelerate = false) : (s.axis a).accIndex < n - j :=
      Nat.not_le.mp ((not_congr htest).mp (Bool.eq_false_iff.mp hdec))
    rw [h.cruiseDelay] at hpolicy
    obtain ⟨hdec, rfl, hread⟩ | ⟨hdec, rfl, rfl, e, hread, hle⟩ | ⟨hdec, rfl, hread, habove⟩ := hpolicy
    · exact ⟨evenMove_near_end h.index.symm hj (htest.mp hdec) hread, (Nat.sub_le ..).trans_lt hlt⟩
    · exact ⟨evenMove_cruising h.index.symm (hfar hdec) hread hle, hlt⟩
    · exact ⟨evenMove_accelerating h.index.symm heven (hfar hdec) hread habove,
        (min_le_right ..).trans_lt (Nat.sub_one_lt_of_lt hlt)⟩
  obtain ⟨⟨rfl, rfl⟩, hk⟩ := hstep
  rw [hd, hunit] at hnext
  refine ⟨_, hnext, rfl, ?_⟩
  rw [State.axis_setAxis_same]
  exact ⟨h.inv.advance hoff hk, h.floor, h.cruiseDelay, rfl, hnear⟩

theorem rampDelays_of_atStep {a : Axis} {s : State} {cruise : Word} {n m j : Nat} (heven : 2 ∣ n) (hj : j + m = n)
    (h : (s.axis a).AtStep s.table cruise n j) :
    ∃ t, rampDelays a m s = .ok ((List.range' j m).map (evenMoveDelay s.table cruise n), t) := by
  induction m generalizing s j with
  | zero => exact ⟨s, rfl⟩
  | succ m ih =>
    obtain ⟨t, hnext, htable, hstep⟩ := rampNext_of_atStep heven (by omega) h
    rw [← htable] at hstep
    obtain ⟨u, hrest⟩ := ih (by omega) hstep
    rw [htable] at hrest
    exact ⟨u, rampDelays_succ hnext hrest⟩

/-- A list whose entry depends on the distance to the nearer end alone is its own reverse. -/
theorem reverse_map_evenMoveDelay (table : List Word) (cruise : Word) (n : Nat) :
    ((List.range' 0 n).map (evenMoveDelay table cruise n)).reverse =
      (List.range' 0 n).map (evenMoveDelay table cruise n) := by
  refine List.ext_getElem (by simp) fun i hi _ => ?_
  have hi : i < n := by simpa using hi
  simp [List.getElem_reverse, evenMoveDelay, stepPlace_mirror hi]

end Sys2Proof.Machine

namespace Sys2Proof.Proofs

open Sys2Proof Sys2Proof.Machine

/-- Settles O17: after `RampSetTarget` the unit points at its target, so each call finds a step until the distance is 0. -/
theorem rampGivesOneDelayPerStep : Obligations.RampGivesOneDelayPerStep := by
  refine ⟨fun s a target cruise arrival => ⟨rfl, fun b => State.axis_setAxis_of_ne s a b _, ?_⟩, fun _ => rfl, signOf_toInt,
    fun s a target cruise arrival htable => ?_⟩
  · rw [rampSetTarget_axis]
    cases arrival <;> rfl
  have hinv : ((rampSetTarget a target cruise arrival s).axis a).RampInv (rampSetTarget a target cruise arrival s).rampLen :=
    rampSetTarget_rampInv htable a target cruise arrival
  have hway := rampSetTarget_remaining a target cruise arrival s
  have hunit := rampSetTarget_axis a target cruise arrival s
  constructor
  · intro m hm
    obtain ⟨ds, t, hdelays, hlength, hend, -⟩ := rampDelays_of_le hinv (hm.trans_eq hway.symm)
    refine ⟨ds, t, hdelays, hlength, hend.trans ?_⟩
    rw [hunit]
    rfl
  · obtain ⟨ds, t, hdelays, -, -, htarget, hleft⟩ := rampDelays_of_le hinv hway.ge
    have hon : (t.axis a).position = (t.axis a).target := (AxisUnit.position_eq_target_iff _).mpr (by omega)
    refine ⟨ds, t, hdelays, ?_, rampNext_of_onTarget hon⟩
    rw [hon, htarget, hunit]
    rfl

/-- Settles O18: the delay of each step is that of its distance to the nearer end of the move. -/
theorem evenMoveDelaysArePalindrome : Obligations.EvenMoveDelaysArePalindrome := by
  intro s a target cruise htable heven
  have hstart : ((rampSetTarget a target cruise none s).axis a).AtStep (rampSetTarget a target cruise none s).table cruise
      (target.toInt - (s.axis a).position.toInt).natAbs 0 := by
    have hunit := rampSetTarget_axis a target cruise none s
    refine ⟨rampSetTarget_rampInv htable a target cruise none, ?_, ?_, ?_, rampSetTarget_remaining a target cruise none s⟩
    · rw [hunit]; rfl
    · rw [hunit]; rfl
    · rw [hunit]; simp [AxisUnit.rampSetTarget, stepIndex]
  obtain ⟨t, hdelays⟩ := rampDelays_of_atStep heven (Nat.zero_add _) hstart
  exact ⟨_, t, hdelays, by simp, reverse_map_evenMoveDelay ..⟩

end Sys2Proof.Proofs
end

section
/-! PROOF. STEP_MONITOR and TICK (44_machine_ops.md R170, R171): what one poll of an axis does (43_axis.md R152,
42_pulse_scheduler.md R130 to R136), and TICK as the STEP_MONITOR of its slot's axis. -/

namespace Sys2Proof.Machine

open Sys2Proof Sys2Proof.Claims

/-! ### RampNext reads the table and one unit -/

theorem rampNext_frame {a : Axis} {s t : State} {r : Option Word} (h : rampNext a s = .ok (r, t)) :
    t = s.setAxis a (t.axis a) := by
  obtain ⟨-, -, rfl⟩ | ⟨-, d, k, -, rfl, -⟩ := rampNext_cases h
  · exact (State.setAxis_axis ..).symm
  · rw [State.axis_setAxis_same]

/-- What `RampNext` writes is the same in any state with the same table and unit, whatever the step pin shows. -/
theorem rampNext_of_agree {a : Axis} {s s' t : State} {r : Option Word} {pulse : Bool} (h : rampNext a s = .ok (r, t))
    (hunit : s'.axis a = { s.axis a with pulseHigh := pulse }) (htable : s'.table = s.table) :
    rampNext a s' = .ok (r, s'.setAxis a { t.axis a with pulseHigh := pulse }) := by
  have hadvance : (s'.axis a).advance = { (s.axis a).advance with pulseHigh := pulse } := by rw [hunit]; rfl
  have htest : (s'.axis a).advance.mustDecelerate = (s.axis a).advance.mustDecelerate := by rw [hadvance]; rfl
  have hread {i : Nat} {e : Word} (he : s.table[i]? = some e) : tableRead i s' = .ok e := by
    rw [tableRead_eq_ok, htable, he]
  have hlen : s'.rampLen = s.rampLen := by rw [State.rampLen, State.rampLen, htable]
  obtain ⟨hon, rfl, rfl⟩ | ⟨hoff, d, k, rfl, rfl, hpolicy⟩ := rampNext_cases h
  · rw [rampNext_of_onTarget (by rw [hunit]; exact hon), ← hunit, State.setAxis_axis]
  have hoff' : (s'.axis a).position ≠ (s'.axis a).target := by rw [hunit]; exact hoff
  have hindex : (s'.axis a).advance.accIndex = (s.axis a).accIndex := by rw [hadvance]; rfl
  have hcruiseDelay : (s'.axis a).advance.cruiseDelay = (s.axis a).cruiseDelay := by rw [hadvance]; rfl
  simp only [rampNext, if_neg hoff', htest, hindex, hcruiseDelay, State.axis_setAxis_same]
  obtain ⟨hdec, rfl, he⟩ | ⟨hdec, rfl, rfl, e, he, hle⟩ | ⟨hdec, rfl, he, hlt⟩ := hpolicy
  case inl =>
    rw [if_pos hdec, hread he, hadvance]
    rfl
  case inr.inl =>
    rw [if_neg (Bool.eq_false_iff.mp hdec), hread he, ok_bind, if_pos hle, hadvance]
    rfl
  case inr.inr =>
    rw [if_neg (Bool.eq_false_iff.mp hdec), hread he, ok_bind, if_neg hlt.not_ge, hlen, hadvance]
    rfl

theorem rampNext_of_same {a : Axis} {s s' t : State} {r : Option Word} (h : rampNext a s = .ok (r, t))
    (hunit : s'.axis a = s.axis a) (htable : s'.table = s.table) :
    rampNext a s' = .ok (r, s'.setAxis a (t.axis a)) := by
  have hagree := rampNext_of_agree (pulse := (s.axis a).pulseHigh) h hunit htable
  rwa [← rampNext_pulseHigh h] at hagree

theorem rampNext_begin {a : Axis} {s t : State} {r : Option Word} (h : rampNext a s = .ok (r, t)) :
    rampNext a s.begin = .ok (r, s.begin.setAxis a (t.axis a)) := rampNext_of_same h rfl rfl

/-! ### The poll's cases (43_axis.md R152) -/

section Poll
variable {a : Axis} {now : Time} {s : State}

theorem schedule_of_lt {t : Nat} (s : State) (h : t < 2 ^ 64) :
    schedule a t s = .ok (s.setAxis a { s.axis a with nextEventTime := BitVec.ofNat 64 t }) :=
  ((schedule_cases a t s).resolve_right fun ⟨hge, _⟩ => hge.not_gt h).2

theorem axisPoll_of_onTarget (h : s.onTarget a = true) : axisPoll a now s = .ok s := by simp [axisPoll, h]

theorem axisPoll_of_early (hnext : (s.axis a).nextEventTime ≠ 0#64)
    (h : now.toNat < (s.axis a).nextEventTime.toNat) : axisPoll a now s = .ok s := by
  simp [axisPoll, hnext, h]

theorem axisPoll_of_idle (htarget : s.onTarget a = false) (hidle : (s.axis a).nextEventTime = 0#64) :
    axisPoll a now s = prime a now s := by
  simp [axisPoll, htarget, hidle]

theorem axisPoll_of_due_high (hnext : (s.axis a).nextEventTime ≠ 0#64)
    (hdue : (s.axis a).nextEventTime.toNat ≤ now.toNat) (hhigh : (s.axis a).pulseHigh = true) :
    axisPoll a now s = schedFall a now s := by
  simp [axisPoll, State.onTarget_eq_false_of_scheduled hnext, hnext, hdue.not_gt, hhigh]

theorem axisPoll_of_due_low (hnext : (s.axis a).nextEventTime ≠ 0#64)
    (hdue : (s.axis a).nextEventTime.toNat ≤ now.toNat) (hlow : (s.axis a).pulseHigh = false) :
    axisPoll a now s = schedRise a now s := by
  simp [axisPoll, State.onTarget_eq_false_of_scheduled hnext, hnext, hdue.not_gt, hlow]

/-! ### The operations run the poll -/

theorem stepMonitorBody_of_executing (hqueue : s.queue ≠ []) : stepMonitorBody (some a) now s = axisPoll a now s := by
  simp [stepMonitorBody, executing_iff.mpr hqueue]

theorem exec_stepMonitor_of_ok {axis : Option Axis} {t : State} (hs : s.halted = false)
    (h : stepMonitorBody axis now s.begin = .ok t) :
    exec (.stepMonitor axis now) s = .next (t.respond .done false 0#32) := by
  change runRequest (stepMonitorOp axis now) s = _
  rw [runRequest_of_running hs, stepMonitorOp, h]
  rfl

/-! ### A poll that has nothing to do -/

theorem stepMonitorBody_of_nothing_due {axis : Option Axis}
    (h : axis = none ∨ s.queue = [] ∨ ∃ a, axis = some a ∧ (s.onTarget a = true ∨
      ((s.axis a).nextEventTime ≠ 0#64 ∧ now.toNat < (s.axis a).nextEventTime.toNat))) :
    stepMonitorBody axis now s = .ok s := by
  cases axis with
  | none => rfl
  | some b =>
    by_cases hqueue : s.queue = []
    · simp [stepMonitorBody, State.executing, hqueue]
    rw [stepMonitorBody_of_executing hqueue]
    obtain hnone | hnil | ⟨a, ha, hwait⟩ := h
    · cases hnone
    · exact absurd hnil hqueue
    · cases ha
      obtain htarget | ⟨hnext, hearly⟩ := hwait
      · exact axisPoll_of_onTarget htarget
      · exact axisPoll_of_early hnext hearly

/-! ### The events of a poll, as one update each -/

theorem prime_of_rampNext {t : State} {d : Word} (hr : rampNext a s = .ok (some d, t))
    (h : now.toNat + d.toNat < 2 ^ 64) :
    prime a now s = .ok (t.setAxis a { t.axis a with
      nextEventTime := BitVec.ofNat 64 (max (now.toNat + d.toNat) 1) }) := by
  rw [prime, hr]
  exact schedule_of_lt t (by omega)

theorem schedRise_of_lt (h : now.toNat + s.signalLength.toNat < 2 ^ 64) :
    schedRise a now s = .ok ((s.setAxis a { s.axis a with
      pulseHigh := true, nextEventTime := BitVec.ofNat 64 (now.toNat + s.signalLength.toNat) }).emit (.stepRise a)) :=
  ((schedRise_cases a now s).resolve_right fun ⟨hge, _⟩ => hge.not_gt h).2

/-- The time a fall leaves for the delay `r` of `RampNext` (42_pulse_scheduler.md R131, R133). -/
def timeAfterFall (now : Time) (signalLength : Word) : Option Word → Time
  | some d => BitVec.ofNat 64 (now.toNat + lowInterval d signalLength)
  | none => 0#64

theorem schedFall_of_rampNext {t : State} {r : Option Word} (hr : rampNext a s = .ok (r, t))
    (h : ∀ d, r = some d → now.toNat + lowInterval d s.signalLength < 2 ^ 64) :
    schedFall a now s = .ok ((s.emit (.stepFall a)).setAxis a { t.axis a with
      pulseHigh := false, nextEventTime := timeAfterFall now s.signalLength r }) := by
  have hunit : ((s.setPulse a false).emit (.stepFall a)).axis a = { s.axis a with pulseHigh := false } := by
    simp [State.setPulse]
  rw [schedFall, rampNext_of_agree hr hunit rfl, ok_bind]
  cases r with
  | some d =>
    refine (schedule_of_lt _ (h d rfl)).trans (congrArg Except.ok ?_)
    simp [State.setAxis, State.emit, State.setPulse, State.axis, timeAfterFall]
  | none => simp [State.setIdle, State.setAxis, State.emit, State.setPulse, State.axis, timeAfterFall]

end Poll

/-! ### What a poll leaves scheduled (42_pulse_scheduler.md R135, R136) -/

theorem ofNat_time_toNat {t : Nat} (h : t < 2 ^ 64) : (BitVec.ofNat 64 t).toNat = t := by
  rw [BitVec.toNat_ofNat, Nat.mod_eq_of_lt h]

/-- An edge at `now` schedules nothing before `now + SIGNAL_LENGTH`. -/
def HoldsAfter (a : Axis) (now : Time) (s t : State) : Prop :=
  (t.axis a).nextEventTime = 0#64 ∨ now.toNat + s.signalLength.toNat ≤ (t.axis a).nextEventTime.toNat

theorem schedRise_holds {a : Axis} {now : Time} {s t : State} (h : schedRise a now s = .ok t) : HoldsAfter a now s t := by
  obtain ⟨hlt, hok⟩ | ⟨-, herror⟩ := schedRise_cases a now s
  · rw [hok] at h
    cases h
    refine .inr ?_
    rw [State.axis_emit, State.axis_setAxis_same]
    exact (ofNat_time_toNat hlt).ge
  · rw [herror] at h
    cases h

theorem schedFall_holds {a : Axis} {now : Time} {s t : State} (h : schedFall a now s = .ok t) : HoldsAfter a now s t := by
  obtain ⟨r, u, -, ⟨d, -, hlt, rfl⟩ | ⟨-, rfl⟩⟩ := schedFall_eq_ok h
  · refine .inr ?_
    rw [State.axis_setAxis_same]
    exact (Nat.add_le_add_left (le_max_right ..) _).trans_eq (ofNat_time_toNat hlt).symm
  · exact .inl (by rw [State.setIdle, State.axis_setAxis_same])

theorem prime_pulseHigh {a : Axis} {now : Time} {s t : State} (h : prime a now s = .ok t) :
    (t.axis a).pulseHigh = (s.axis a).pulseHigh := by
  obtain ⟨r, u, hr, ⟨d, -, -, rfl⟩ | ⟨-, rfl⟩⟩ := prime_eq_ok h
  · rw [State.axis_setAxis_same]
    exact rampNext_pulseHigh hr
  · exact rampNext_pulseHigh hr

/-- A poll that changes the pulse holds it (42_pulse_scheduler.md R136). -/
theorem axisPoll_holds_of_edge {a : Axis} {now : Time} {s t : State} (h : axisPoll a now s = .ok t)
    (hedge : (t.axis a).pulseHigh ≠ (s.axis a).pulseHigh) : HoldsAfter a now s t := by
  obtain ⟨-, rfl⟩ | ⟨-, -, hprime⟩ | ⟨-, -, -, rfl⟩ | ⟨-, -, -, -, hfall⟩ | ⟨-, -, -, -, hrise⟩ := axisPoll_cases h
  · exact absurd rfl hedge
  · exact absurd (prime_pulseHigh hprime) hedge
  · exact absurd rfl hedge
  · exact schedFall_holds hfall
  · exact schedRise_holds hrise

/-! ### What a timer operation writes (43_axis.md R155) -/

/-- The effects `es` hold at most one edge, of the axis served. -/
def AtMostOneEdge (axis : Option Axis) (es : List Effect) : Prop :=
  es = [] ∨ ∃ a, axis = some a ∧ (es = [.stepRise a] ∨ es = [.stepFall a])

theorem stepMonitorBody_frame {axis : Option Axis} {now : Time} {s t : State}
    (h : stepMonitorBody axis now s = .ok t) :
    t = { s with axes := t.axes, effects := t.effects } ∧ (∀ b, axis ≠ some b → t.axis b = s.axis b) ∧
      ∃ es, t.effects = s.effects ++ es ∧ AtMostOneEdge axis es := by
  obtain rfl | ⟨a, rfl, -, hpoll⟩ := stepMonitorBody_cases h
  · exact ⟨rfl, fun _ _ => rfl, [], by simp, .inl rfl⟩
  obtain ⟨u, es, rfl, hedges⟩ := axisPoll_frame hpoll
  refine ⟨rfl, fun b hb => ?_, es, rfl, ?_⟩
  · exact State.axis_setAxis_of_ne _ _ _ _ fun hba => hb (by rw [hba])
  · exact hedges.imp_right fun hedge => ⟨a, rfl, hedge⟩

/-! ### TICK (44_machine_ops.md R170) -/

section Slot
variable (s : State) (slot : BitVec 2)

/-- The axis poll neither reads nor writes the slot, as each of its parts. -/
theorem rampNext_setRrSlot (a : Axis) :
    rampNext a (s.setRrSlot slot) = (rampNext a s).map fun r => (r.1, r.2.setRrSlot slot) := by
  cases h : rampNext a s with
  | ok r =>
    obtain ⟨r, t⟩ := r
    rw [rampNext_of_same (s' := s.setRrSlot slot) h rfl rfl]
    conv_rhs => rw [rampNext_frame h]
    rfl
  | error e =>
    cases h' : rampNext a (s.setRrSlot slot) with
    | ok r => rw [rampNext_of_same (s' := s) h' rfl rfl] at h; cases h
    | error e' => rw [(rampNext_eq_error h).2, (rampNext_eq_error h').2]; rfl

theorem schedule_setRrSlot (a : Axis) (t : Nat) :
    schedule a t (s.setRrSlot slot) = (schedule a t s).map (·.setRrSlot slot) := by
  unfold schedule
  split <;> rfl

theorem prime_setRrSlot (a : Axis) (now : Time) :
    prime a now (s.setRrSlot slot) = (prime a now s).map (·.setRrSlot slot) := by
  rw [prime, prime, rampNext_setRrSlot]
  cases rampNext a s with
  | error e => rfl
  | ok r =>
    obtain ⟨_ | d, u⟩ := r
    · rfl
    · exact schedule_setRrSlot ..

theorem schedRise_setRrSlot (a : Axis) (now : Time) :
    schedRise a now (s.setRrSlot slot) = (schedRise a now s).map (·.setRrSlot slot) := by
  have hpulse : (s.setRrSlot slot).setPulse a true = (s.setPulse a true).setRrSlot slot := rfl
  rw [schedRise, schedRise, hpulse, schedule_setRrSlot]
  change Except.map _ (schedule a (now.toNat + s.signalLength.toNat) (s.setPulse a true)) >>= _ = _
  cases schedule a (now.toNat + s.signalLength.toNat) (s.setPulse a true) <;> rfl

theorem schedFall_setRrSlot (a : Axis) (now : Time) :
    schedFall a now (s.setRrSlot slot) = (schedFall a now s).map (·.setRrSlot slot) := by
  have hpulse : ((s.setRrSlot slot).setPulse a false).emit (.stepFall a) =
      ((s.setPulse a false).emit (.stepFall a)).setRrSlot slot := rfl
  rw [schedFall, schedFall, hpulse, rampNext_setRrSlot]
  cases rampNext a ((s.setPulse a false).emit (.stepFall a)) with
  | error e => rfl
  | ok r =>
    obtain ⟨_ | d, u⟩ := r
    · rfl
    · exact schedule_setRrSlot ..

theorem axisPoll_setRrSlot (a : Axis) (now : Time) :
    axisPoll a now (s.setRrSlot slot) = (axisPoll a now s).map (·.setRrSlot slot) := by
  simp only [axisPoll, State.onTarget_setRrSlot, State.axis_setRrSlot, prime_setRrSlot, schedFall_setRrSlot,
    schedRise_setRrSlot]
  split_ifs <;> rfl

theorem stepMonitorBody_setRrSlot (axis : Option Axis) (now : Time) :
    stepMonitorBody axis now (s.setRrSlot slot) = (stepMonitorBody axis now s).map (·.setRrSlot slot) := by
  cases axis with
  | none => rfl
  | some a =>
    have hexecuting : (s.setRrSlot slot).executing = s.executing := rfl
    simp only [stepMonitorBody, hexecuting, axisPoll_setRrSlot]
    split <;> rfl

/-- TICK is the STEP_MONITOR of its slot's axis, with the slot advanced. -/
theorem tickBody_eq (now : Time) :
    tickBody now s = (stepMonitorOp (slotAxis s.rrSlot) now s).map (·.setRrSlot (s.rrSlot + 1#2)) := by
  rw [tickBody, stepMonitorOp, stepMonitorBody_setRrSlot]
  cases stepMonitorBody (slotAxis s.rrSlot) now s <;> rfl

end Slot

theorem axisCode_axisOfCode : ∀ v : BitVec 2, axisCode (axisOfCode v) = v := by decide

theorem slotAxis_eq_some_iff {slot : BitVec 2} {a : Axis} : slotAxis slot = some a ↔ slot = axisCode (some a) := by
  rw [slotAxis]
  constructor
  · intro h
    rw [← h, axisCode_axisOfCode]
  · rintro rfl
    exact axisOfCode_axisCode _

/-! ### Short of the end of time a poll runs to its end -/

section Completion
variable {a : Axis} {now : Time} {s : State} (hnow : now.toNat + 2 ^ 32 ≤ 2 ^ 64)

theorem rampNext_completes (hindex : (s.axis a).accIndex < s.rampLen) : ∃ r t, rampNext a s = .ok (r, t) := by
  by_cases hon : (s.axis a).position = (s.axis a).target
  · exact ⟨_, _, rampNext_of_onTarget hon⟩
  · obtain ⟨d, k, -, hr⟩ := rampNext_of_valid hon hindex
    exact ⟨_, _, hr⟩

include hnow

theorem prime_completes (hindex : (s.axis a).accIndex < s.rampLen) : ∃ t, prime a now s = .ok t := by
  obtain ⟨_ | d, t, hr⟩ := rampNext_completes hindex
  · exact ⟨t, by rw [prime, hr]; rfl⟩
  · exact ⟨_, prime_of_rampNext hr (by have := d.isLt; omega)⟩

theorem schedFall_completes (hindex : (s.axis a).accIndex < s.rampLen) : ∃ t, schedFall a now s = .ok t := by
  obtain ⟨r, t, hr⟩ := rampNext_completes hindex
  refine ⟨_, schedFall_of_rampNext hr fun d _ => ?_⟩
  have hdelay := d.isLt
  have hsignal := s.signalLength.isLt
  rw [lowInterval]
  omega

theorem axisPoll_completes (hindex : (s.axis a).accIndex < s.rampLen) : ∃ t, axisPoll a now s = .ok t := by
  cases htarget : s.onTarget a with
  | true => exact ⟨s, axisPoll_of_onTarget htarget⟩
  | false =>
    by_cases hidle : (s.axis a).nextEventTime = 0#64
    · rw [axisPoll_of_idle htarget hidle]
      exact prime_completes hnow hindex
    by_cases hearly : now.toNat < (s.axis a).nextEventTime.toNat
    · exact ⟨s, axisPoll_of_early hidle hearly⟩
    have hdue := Nat.not_lt.mp hearly
    cases hpulse : (s.axis a).pulseHigh with
    | true =>
      rw [axisPoll_of_due_high hidle hdue hpulse]
      exact schedFall_completes hnow hindex
    | false =>
      rw [axisPoll_of_due_low hidle hdue hpulse]
      exact ⟨_, schedRise_of_lt (by have := s.signalLength.isLt; omega)⟩

theorem stepMonitorBody_completes (hinv : s.Inv) (axis : Option Axis) : ∃ t, stepMonitorBody axis now s = .ok t := by
  cases axis with
  | none => exact ⟨s, rfl⟩
  | some a =>
    by_cases hqueue : s.queue = []
    · exact ⟨s, stepMonitorBody_of_nothing_due (.inr (.inl hqueue))⟩
    · rw [stepMonitorBody_of_executing hqueue]
      exact axisPoll_completes hnow (hinv.axis_inv a).accIndex_lt

end Completion

theorem stepMonitorOp_eq_ok {axis : Option Axis} {now : Time} {s t : State} :
    stepMonitorOp axis now s = .ok t ↔ ∃ u, stepMonitorBody axis now s = .ok u ∧ t = u.respond .done false 0#32 := by
  rw [stepMonitorOp, bind_eq_ok]
  simp [eq_comm]

end Sys2Proof.Machine

namespace Sys2Proof.Proofs

open Sys2Proof Sys2Proof.Machine Sys2Proof.Claims

/-- Settles O19: each of the four leaves the body at once. -/
theorem stepMonitorWithNothingDueChangesNothing : Obligations.StepMonitorWithNothingDueChangesNothing :=
  fun _ _ _ hs hwait => exec_stepMonitor_of_ok hs (stepMonitorBody_of_nothing_due hwait)

/-- Settles O20: the poll of an idle axis off its target primes it. -/
theorem stepMonitorPrimesTheMove : Obligations.StepMonitorPrimesTheMove := by
  intro s t a now d hs hqueue hidle hr htime
  have hpoll : stepMonitorBody (some a) now s.begin = _ :=
    calc stepMonitorBody (some a) now s.begin
        = axisPoll a now s.begin := stepMonitorBody_of_executing hqueue
      _ = prime a now s.begin := axisPoll_of_idle (State.onTarget_eq_false_of_rampNext (rampNext_begin hr)) hidle
      _ = _ := prime_of_rampNext (rampNext_begin hr) htime
  rw [exec_stepMonitor_of_ok hs hpoll, rampNext_frame hr]
  simp [State.setAxis, State.axis, State.begin, State.respond, doneRsp]

/-- Settles O21: the due poll of a low pulse is a rise. -/
theorem stepMonitorRaisesTheDuePulse : Obligations.StepMonitorRaisesTheDuePulse := by
  intro s a now hs hqueue hnext hdue hlow htime
  have hpoll : stepMonitorBody (some a) now s.begin = _ :=
    calc stepMonitorBody (some a) now s.begin
        = axisPoll a now s.begin := stepMonitorBody_of_executing hqueue
      _ = schedRise a now s.begin := axisPoll_of_due_low hnext hdue hlow
      _ = _ := schedRise_of_lt htime
  exact exec_stepMonitor_of_ok hs hpoll

/-- Settles O22: the due poll of a high pulse is a fall, whose ramp does not read the pin it lowers. -/
theorem stepMonitorLowersTheDuePulse : Obligations.StepMonitorLowersTheDuePulse := by
  intro s t a now r hs hqueue hnext hdue hhigh hr htime
  have hpoll : stepMonitorBody (some a) now s.begin = _ :=
    calc stepMonitorBody (some a) now s.begin
        = axisPoll a now s.begin := stepMonitorBody_of_executing hqueue
      _ = schedFall a now s.begin := axisPoll_of_due_high hnext hdue hhigh
      _ = _ := schedFall_of_rampNext (rampNext_begin hr) htime
  rw [exec_stepMonitor_of_ok hs hpoll, rampNext_frame hr]
  cases r <;> simp [State.setAxis, State.axis, State.begin, State.emit, State.respond, doneRsp, timeAfterFall, lowInterval]

/-- Settles O24: the slot's advance commutes with the body, and a fault discards it. -/
theorem tickServesItsSlotAndAdvances : Obligations.TickServesItsSlotAndAdvances := by
  intro s t axis now hs hserved h
  change runRequest (stepMonitorOp axis now) s = .next t at h
  change runRequest (tickBody now) s = _
  have hslot : slotAxis s.begin.rrSlot = axis := slotAxis_of_served hserved
  rw [runRequest_of_running hs] at h ⊢
  rw [tickBody_eq, hslot]
  obtain hok | ⟨cause, faultAxis, hraised, rfl⟩ := commit_eq_next.mp h
  · obtain ⟨hhalted, -⟩ := stepMonitorOp_answer hok
    rw [hok, if_neg (by simp [hhalted, State.begin, hs])]
    rfl
  · rw [hraised]
    rfl

/-- Settles O25: the indices are valid and no sum reaches 2^64, so nothing ends the body early. -/
theorem tickAndStepMonitorComplete : Obligations.TickAndStepMonitorComplete := by
  intro s now hinv hs hnow
  constructor
  · obtain ⟨u, hu⟩ := stepMonitorBody_completes hnow hinv.begin (slotAxis s.begin.rrSlot)
    have hframe := (stepMonitorBody_frame hu).1
    have htick : tickBody now s.begin = .ok ((u.respond .done false 0#32).setRrSlot (s.rrSlot + 1#2)) := by
      rw [tickBody_eq, stepMonitorOp_eq_ok.mpr ⟨u, hu, rfl⟩]
      rfl
    refine ⟨(u.respond .done false 0#32).setRrSlot (s.rrSlot + 1#2), ?_, ?_, rfl, rfl⟩
    · change runRequest (tickBody now) s = _
      rw [runRequest_of_running hs, htick]
      rfl
    · exact (stepMonitorBody_halted hu).trans hs
  · intro axis
    obtain ⟨u, hu⟩ := stepMonitorBody_completes hnow hinv.begin axis
    refine ⟨u.respond .done false 0#32, exec_stepMonitor_of_ok hs hu, (stepMonitorBody_halted hu).trans hs, ?_, rfl⟩
    rw [State.respond_rrSlot, (stepMonitorBody_frame hu).1]
    rfl

/-- Settles O26: both run one body, which polls one axis; TICK's is that of its slot. -/
theorem timerOperationsTouchOneAxis : Obligations.TimerOperationsTouchOneAxis := by
  intro s t now ht
  constructor
  · intro axis h
    obtain ⟨u, hbody, rfl⟩ := stepMonitorOp_eq_ok.mp (runRequest_running h ht).2
    obtain ⟨hframe, hothers, es, hes, hedge⟩ := stepMonitorBody_frame hbody
    have heffects : u.effects = es := hes
    refine ⟨?_, hothers, ?_⟩
    · rw [hframe]
      rfl
    · rw [State.respond_effects, heffects]
      exact hedge
  · intro h
    obtain ⟨u, hbody, hrespond⟩ := bind_eq_ok.mp (runRequest_running h ht).2
    cases hrespond
    obtain ⟨hframe, hothers, es, hes, hedge⟩ := stepMonitorBody_frame hbody
    have heffects : u.effects = es := hes
    refine ⟨?_, fun b hb => hothers b fun hslot => hb (slotAxis_eq_some_iff.mp hslot), ?_⟩
    · rw [hframe]
      rfl
    · rw [State.respond_effects, heffects]
      exact hedge.imp_right fun ⟨a, hslot, hedge⟩ => ⟨a, slotAxis_eq_some_iff.mp hslot, hedge⟩

/-- Settles O27: an edge schedules past `now`, which is at or past the event that was due. -/
theorem nextEventOnlyMovesForward : Obligations.NextEventOnlyMovesForward := by
  intro s t a now hsignal hnext hpoll
  have hforward (hdue : (s.axis a).nextEventTime.toNat ≤ now.toNat) (hholds : HoldsAfter a now s t) :
      t = s ∨ (t.axis a).nextEventTime = 0#64 ∨ (s.axis a).nextEventTime.toNat < (t.axis a).nextEventTime.toNat :=
    .inr (hholds.imp_right fun hle => by omega)
  obtain ⟨-, rfl⟩ | ⟨-, hidle, -⟩ | ⟨-, -, -, rfl⟩ | ⟨-, -, hdue, -, hfall⟩ | ⟨-, -, hdue, -, hrise⟩ := axisPoll_cases hpoll
  · exact .inl rfl
  · exact absurd hidle hnext
  · exact .inl rfl
  · exact hforward hdue (schedFall_holds hfall)
  · exact hforward hdue (schedRise_holds hrise)

/-- Settles O28: the edge scheduled the next event at or past `now + SIGNAL_LENGTH`, so the later poll is early. -/
theorem pulseHoldsForSignalLength : Obligations.PulseHoldsForSignalLength := by
  intro s t a now later hpoll hedge hnext hlater
  obtain hidle | hholds := axisPoll_holds_of_edge hpoll hedge
  · exact absurd hidle hnext
  · exact axisPoll_of_early hnext (hlater.trans_le hholds)

end Sys2Proof.Proofs
end

section
/-! PROOF. POLL and ENQUEUE (44_machine_ops.md R172 to R175, R178): intake, retirement and the decoding of the head. -/

namespace Sys2Proof.Machine

open Sys2Proof Sys2Proof.Claims

/-! ### The operations run their bodies -/

section Bodies
variable {s t : State} (hs : s.halted = false)
include hs

theorem exec_poll_of_ok {offer : Option Bundle} (h : pollBody offer s.begin = .ok t) :
    exec (.poll offer) s = .next t := by
  change runRequest (pollBody offer) s = _
  rw [runRequest_of_running hs, h]
  rfl

theorem exec_enqueue_of_ok {c : Bundle} (h : enqueueBody c s.begin = .ok t) : exec (.enqueue c) s = .next t := by
  change runRequest (enqueueBody c) s = _
  rw [runRequest_of_running hs, h]
  rfl

end Bodies

theorem pollBody_of_ok {offer : Option Bundle} {s u v : State} (hintake : pollIntake offer s = .ok u)
    (hretire : retire u = .ok v) : pollBody offer s = .ok (v.respond .done (takesOffer offer s) 0#32) := by
  rw [pollBody, hintake, ok_bind, hretire]
  rfl

theorem enqueueBody_of_intake {c : Bundle} {s u : State} (hroom : s.queue.length < 2) (hintake : intake c s = .ok u) :
    enqueueBody c s = .ok (u.respond .done false 0#32) := by
  rw [enqueueBody, if_neg hroom.not_ge, hintake]
  rfl

theorem enqueueBody_of_full {c : Bundle} {s : State} (hfull : 2 ≤ s.queue.length) :
    enqueueBody c s = .ok (s.respond .rejected false 0#32) := if_pos hfull

theorem takesOffer_eq_false_iff {offer : Option Bundle} {s : State} :
    takesOffer offer s = false ↔ offer = none ∨ 2 ≤ s.queue.length := by
  cases offer with
  | none => simp [takesOffer]
  | some c => simp [takesOffer, Nat.succ_le_iff]

/-- Behind a head an intake is a push (44_machine_ops.md R172, R175). -/
theorem pollIntake_behind_head {c : Bundle} {s : State} (hqueue : s.queue ≠ []) (hroom : s.queue.length < 2) :
    pollIntake (some c) s = .ok (s.push c) := (pollIntake_of_some hroom).trans (intake_of_head c hqueue)

/-! ### A command at the head -/

theorem begin_push_of_empty {s : State} (c : Bundle) (hqueue : s.queue = []) :
    s.begin.push c = ({ s with queue := [c] } : State).begin := by
  rw [State.push, State.begin, hqueue]
  rfl

/-- The command at the head decodes as it runs by itself: to its end, or to the fault whose record it leaves
(45_commands.md R200). -/
theorem decodeHead_of_exec {s t : State} {c : Bundle} {rest : List Bundle} (hs : s.halted = false)
    (hqueue : s.queue = c :: rest) (h : exec (Instr.ofCommand (decodeCmd c)) s = .next t) :
    (t.halted = false ∧ decodeHead s.begin = .ok t) ∨
    (t.halted = true ∧ decodeHead s.begin = .error (.raised t.faultCause t.faultAxis)) := by
  have hhead : decodeHead s.begin = commandEffect (decodeCmd c) s.begin := decodeHead_of_cons hqueue
  rw [hhead]
  rw [execCommand_eq, runCommand_of_running hs] at h
  obtain hok | ⟨cause, axis, hraised, rfl⟩ := commit_eq_next.mp h
  · exact .inl ⟨(commandEffect_writes hok).halted.trans hs, hok⟩
  · exact .inr ⟨rfl, hraised⟩

/-! ### A POLL or an ENQUEUE of a command into an empty queue -/

section EmptyQueue
variable {s t : State} {c : Bundle} (hs : s.halted = false) (hqueue : s.queue = [])
include hs hqueue

theorem intake_of_exec (h : exec (Instr.ofCommand (decodeCmd c)) { s with queue := [c] } = .next t) :
    (t.halted = false ∧ t.queue = [c] ∧ intake c s.begin = .ok t) ∨
    (t.halted = true ∧ intake c s.begin = .error (.raised t.faultCause t.faultAxis)) := by
  have hintake : intake c s.begin = decodeHead ({ s with queue := [c] } : State).begin := by
    rw [intake_of_empty (s := s.begin) c hqueue, begin_push_of_empty c hqueue]
  rw [hintake]
  obtain ⟨hrunning, hok⟩ | hraised := decodeHead_of_exec (s := { s with queue := [c] }) hs rfl h
  · exact .inl ⟨hrunning, (decodeHead_writes hok).queue, hok⟩
  · exact .inr hraised

end EmptyQueue

/-- A retirement of the only command decodes nothing. -/
theorem retire_of_single {t : State} {c : Bundle} (hqueue : t.queue = [c]) :
    retire t = .ok { t with queue := if t.allOnTarget then [] else [c] } := by
  cases htarget : t.allOnTarget with
  | true =>
    rw [retire_of_onTarget (by simp [hqueue]) htarget, decodeHead_of_nil (by simp [hqueue]), State.pop, hqueue]
    rfl
  | false =>
    rw [retire_of_motion (.inr htarget), if_neg Bool.false_ne_true, ← hqueue]

/-! ### A POLL with a command executing and every axis on target -/

/-- The POLL is then the decoding of what comes to the head. -/
theorem pollBody_of_onTarget {s : State} (offer : Option Bundle) (hqueue : s.queue ≠ []) (htarget : s.allOnTarget = true) :
    pollBody offer s = decodeHead { s with queue := afterRetirement s offer } >>= fun t =>
      .ok (t.respond .done (takesOffer offer s) 0#32) := by
  have hintake : ∃ u, pollIntake offer s = .ok u ∧ retire u = decodeHead { s with queue := afterRetirement s offer } := by
    cases htakes : takesOffer offer s with
    | false =>
      refine ⟨s, pollIntake_of_none htakes, ?_⟩
      have hafter : afterRetirement s offer = s.queue.drop 1 := by
        obtain rfl | hfull := takesOffer_eq_false_iff.mp htakes
        · simp [afterRetirement]
        · simp [afterRetirement, hfull.not_gt]
      rw [retire_of_onTarget hqueue htarget, hafter]
      rfl
    | true =>
      obtain ⟨hroom, c, rfl⟩ := takesOffer_iff.mp htakes
      refine ⟨s.push c, pollIntake_behind_head hqueue hroom, ?_⟩
      have hafter : afterRetirement s (some c) = (s.queue ++ [c]).drop 1 := by
        rw [afterRetirement, if_pos hroom, List.drop_append_of_le_length (List.length_pos_iff.mpr hqueue)]
        rfl
      rw [retire_of_onTarget (s := s.push c) (by simp) htarget, hafter]
      rfl
  obtain ⟨u, hu, hretire⟩ := hintake
  rw [pollBody, hu, ok_bind, hretire]
  rfl

/-! ### The queue over any instruction (45_commands.md R219) -/

theorem pollIntake_queue {offer : Option Bundle} {s t : State} (h : pollIntake offer s = .ok t) :
    t = s ∨ ∃ c, t.queue = s.queue ++ [c] ∧ (s.queue = [] ∨ t.allOnTarget = s.allOnTarget) := by
  obtain rfl | ⟨c, -, -, hintake⟩ := pollIntake_cases h
  · exact .inl rfl
  refine .inr ⟨c, intake_queue hintake, ?_⟩
  by_cases hqueue : s.queue = []
  · exact .inl hqueue
  · rw [intake_of_head c hqueue] at hintake
    cases hintake
    exact .inr rfl

theorem pollBody_queue {offer : Option Bundle} {s t : State} (h : pollBody offer s = .ok t) :
    s.queue <+: t.queue ∨ (s.allOnTarget = true ∧ s.queue.drop 1 <+: t.queue) := by
  obtain ⟨u, v, hintake, hretire, rfl⟩ := pollBody_eq_ok h
  have hqueue : v.queue = u.queue ∨ (u.allOnTarget = true ∧ v.queue = u.queue.drop 1) := by
    obtain rfl | ⟨-, htarget, hwrites⟩ := retire_cases hretire
    · exact .inl rfl
    · exact .inr ⟨htarget, hwrites.queue⟩
  rw [State.respond_queue]
  obtain rfl | ⟨c, htaken, hempty | hsame⟩ := pollIntake_queue hintake
  · exact hqueue.imp (fun (hv : v.queue = _) => hv ▸ List.prefix_rfl) (fun ⟨htarget, hv⟩ => ⟨htarget, hv ▸ List.prefix_rfl⟩)
  · exact .inl (hempty ▸ List.nil_prefix)
  · refine hqueue.imp (fun hv => ?_) (fun ⟨htarget, hv⟩ => ⟨hsame ▸ htarget, ?_⟩)
    · rw [hv, htaken]
      exact List.prefix_append ..
    · rw [hv, htaken, List.drop_append]
      exact List.prefix_append ..

theorem WritingRequest.queue {i : Instr} {body : State → Micro} {s t : State} (h : WritingRequest i body)
    (hok : body s = .ok t) :
    s.queue <+: t.queue ∨ ((∃ offer, i = .poll offer) ∧ s.allOnTarget = true ∧ s.queue.drop 1 <+: t.queue) := by
  have hmonitor {axis : Option Axis} {now : Time} {u : State} (hop : stepMonitorOp axis now u = .ok t) :
      t.queue = u.queue := by
    obtain ⟨v, hbody, rfl⟩ := stepMonitorOp_eq_ok.mp hop
    rw [State.respond_queue, (stepMonitorBody_frame hbody).1]
  cases h with
  | tick now => exact .inl (hmonitor (u := s.setRrSlot (s.rrSlot + 1#2)) hok ▸ List.prefix_rfl)
  | stepMonitor axis now => exact .inl (hmonitor hok ▸ List.prefix_rfl)
  | poll offer => exact (pollBody_queue hok).imp_right fun hretired => ⟨⟨offer, rfl⟩, hretired⟩
  | enqueue c =>
    obtain ⟨-, rfl⟩ | ⟨-, u, hintake, rfl⟩ := enqueueBody_cases hok
    · exact .inl List.prefix_rfl
    · refine .inl ?_
      rw [State.respond_queue, intake_queue hintake]
      exact List.prefix_append ..
  | reservedOp0 => cases hok
  | reservedOp7 => cases hok
  | reservedOpHigh low => cases hok

/-! ### While a move is in progress (44_machine_ops.md R178) -/

/-- Behind a head, with an axis off its target, POLL and ENQUEUE only push. -/
theorem pollBody_axes_of_motion {offer : Option Bundle} {s t : State} (hqueue : s.queue ≠ [])
    (hmotion : s.allOnTarget = false) (h : pollBody offer s = .ok t) : t.axes = s.axes := by
  obtain ⟨u, v, hintake, hretire, rfl⟩ := pollBody_eq_ok h
  have hpushed : u.axes = s.axes ∧ u.allOnTarget = false := by
    obtain rfl | ⟨c, -, -, hpush⟩ := pollIntake_cases hintake
    · exact ⟨rfl, hmotion⟩
    · rw [intake_of_head c hqueue] at hpush
      cases hpush
      exact ⟨rfl, hmotion⟩
  rw [retire_of_motion (.inr hpushed.2)] at hretire
  cases hretire
  exact hpushed.1

theorem enqueueBody_axes_of_head {c : Bundle} {s t : State} (hqueue : s.queue ≠ []) (h : enqueueBody c s = .ok t) :
    t.axes = s.axes := by
  obtain ⟨-, rfl⟩ | ⟨-, u, hintake, rfl⟩ := enqueueBody_cases h
  · rfl
  · rw [intake_of_head c hqueue] at hintake
    cases hintake
    rfl

theorem runRequest_axes {body : State → Micro} {s t : State} (hbody : ∀ u, body s.begin = .ok u → u.axes = s.axes)
    (h : runRequest body s = .next t) : t.axes = s.axes := by
  obtain ⟨-, rfl⟩ | ⟨-, hok⟩ | ⟨-, cause, axis, -, rfl⟩ := runRequest_cases h
  · rfl
  · exact hbody t hok
  · rfl

end Sys2Proof.Machine

namespace Sys2Proof.Proofs

open Sys2Proof Sys2Proof.Machine Sys2Proof.Claims

/-- Settles O29: the intake takes nothing or pushes behind the head, and the retirement test fails. -/
theorem pollWithoutRetirement : Obligations.PollWithoutRetirement := by
  intro s offer hs
  constructor
  · intro hnothing hmotion
    have htakes : takesOffer offer s.begin = false := takesOffer_eq_false_iff.mpr hnothing
    have hbody := pollBody_of_ok (pollIntake_of_none htakes) (retire_of_motion (s := s.begin) hmotion)
    rw [htakes] at hbody
    exact exec_poll_of_ok hs hbody
  · rintro c d rfl hqueue hmotion
    have hpush : pollIntake (some c) s.begin = .ok (s.begin.push c) :=
      pollIntake_behind_head (by simp [State.begin, hqueue]) (by simp [State.begin, hqueue])
    have hbody := pollBody_of_ok hpush (retire_of_motion (s := s.begin.push c) (.inr hmotion))
    rw [exec_poll_of_ok hs hbody]
    simp [State.respond, State.push, State.begin, takesOffer, hqueue]

/-- Settles O30: the decoding that runs the command by itself, then the retirement of the only command. -/
theorem pollDecodesIntoAnEmptyQueue : Obligations.PollDecodesIntoAnEmptyQueue := by
  intro s t c hs hqueue h
  have hintake_eq : pollIntake (some c) s.begin = intake c s.begin := pollIntake_of_some (by simp [State.begin, hqueue])
  obtain ⟨hrunning, hhead, hok⟩ | ⟨hhalted, hraised⟩ := intake_of_exec hs hqueue h
  · have htakes : takesOffer (some c) s.begin = true := by simp [takesOffer, State.begin, hqueue]
    have hbody := pollBody_of_ok (hintake_eq.trans hok) (retire_of_single hhead)
    rw [htakes] at hbody
    rw [exec_poll_of_ok hs hbody, if_neg (Bool.eq_false_iff.mp hrunning)]
    rfl
  · rw [if_pos hhalted]
    exact runRequest_of_raised hs (pollBody_of_intake_error (hintake_eq.trans hraised))

/-- Settles O31: the POLL decodes what comes to the head as the command runs by itself. -/
theorem pollRetiresAndDecodesTheNext : Obligations.PollRetiresAndDecodesTheNext := by
  intro s offer hs hqueue htarget
  have hbody : pollBody offer s.begin = _ := pollBody_of_onTarget offer hqueue htarget
  constructor
  · intro hafter
    have hnone : afterRetirement s.begin offer = [] := hafter
    have htakes : takesOffer offer s.begin = false := by
      rw [Bool.eq_false_iff]
      intro htakes
      obtain ⟨hroom, c, rfl⟩ := takesOffer_iff.mp htakes
      rw [afterRetirement, if_pos hroom] at hnone
      simp at hnone
    rw [hnone, decodeHead_of_nil rfl, ok_bind, htakes] at hbody
    exact exec_poll_of_ok hs hbody
  · intro c rest t hafter h
    have hnext : afterRetirement s.begin offer = c :: rest := hafter
    rw [hnext] at hbody
    have hdecode := decodeHead_of_exec (s := { s with queue := c :: rest }) hs rfl h
    change pollBody offer s.begin = decodeHead ({ s with queue := c :: rest } : State).begin >>= _ at hbody
    obtain ⟨hrunning, hok⟩ | ⟨hhalted, hraised⟩ := hdecode
    · rw [hok, ok_bind] at hbody
      rw [exec_poll_of_ok hs hbody, if_neg (Bool.eq_false_iff.mp hrunning)]
      rfl
    · rw [hraised, error_bind] at hbody
      rw [if_pos hhalted]
      exact runRequest_of_raised hs hbody

/-- Settles O32: behind one command the intake pushes, and a full queue refuses. -/
theorem enqueueAppendsOrRejects : Obligations.EnqueueAppendsOrRejects := by
  intro s c hs
  constructor
  · intro d hqueue
    have hpush : intake c s.begin = .ok (s.begin.push c) := intake_of_head c (by simp [State.begin, hqueue])
    rw [exec_enqueue_of_ok hs (enqueueBody_of_intake (by simp [State.begin, hqueue]) hpush)]
    simp [State.respond, State.push, State.begin, hqueue, doneRsp]
  · exact fun hfull => exec_enqueue_of_ok hs (enqueueBody_of_full hfull.ge)

/-- Settles O33: the decoding that runs the command by itself, with no retirement after it. -/
theorem enqueueDecodesIntoAnEmptyQueue : Obligations.EnqueueDecodesIntoAnEmptyQueue := by
  intro s t c hs hqueue h
  have hroom : s.begin.queue.length < 2 := by simp [State.begin, hqueue]
  obtain ⟨hrunning, -, hok⟩ | ⟨hhalted, hraised⟩ := intake_of_exec hs hqueue h
  · rw [exec_enqueue_of_ok hs (enqueueBody_of_intake hroom hok), if_neg (Bool.eq_false_iff.mp hrunning)]
    rfl
  · rw [if_pos hhalted]
    exact runRequest_of_raised hs (enqueueBody_of_intake_error hroom hraised)

/-- Settles O34: no command, read or fault writes the queue, and of the requests only POLL takes a command off it. -/
theorem commandsLeaveTheQueueOnlyOnTarget : Obligations.CommandsLeaveTheQueueOnlyOnTarget := by
  intro i s t h
  obtain ⟨c, rfl⟩ | ⟨value, hread⟩ | ⟨body, hwrite⟩ := instr_cases i
  · rw [execCommand_eq] at h
    obtain ⟨-, rfl⟩ | ⟨-, hok⟩ | ⟨-, cause, axis, -, rfl⟩ := runCommand_cases h
    · exact .inl List.prefix_rfl
    · exact .inl ((commandEffect_writes hok).queue ▸ List.prefix_rfl)
    · exact .inl List.prefix_rfl
  · rw [hread.exec_eq] at h
    cases h
    exact .inl List.prefix_rfl
  · rw [hwrite.exec_eq] at h
    obtain ⟨-, rfl⟩ | ⟨hs, hok⟩ | ⟨-, cause, axis, -, rfl⟩ := runRequest_cases h
    · exact .inl List.prefix_rfl
    · exact (hwrite.queue hok).imp_right fun ⟨hpoll, htarget, hkept⟩ => ⟨hpoll, hs, htarget, hkept⟩
    · exact .inl List.prefix_rfl

/-- Settles O35: by the invariant the queue has a head while an axis is off its target. -/
theorem movesAreNeverSuperseded : Obligations.MovesAreNeverSuperseded := by
  intro i s t hinv hmotion hi h
  have hqueue : s.begin.queue ≠ [] := fun hnil =>
    Bool.false_ne_true (hmotion.symm.trans (hinv.idle_onTarget hnil))
  obtain ⟨offer, rfl⟩ | ⟨c, rfl⟩ := hi
  · exact runRequest_axes (fun u hok => pollBody_axes_of_motion (s := s.begin) hqueue hmotion hok) h
  · exact runRequest_axes (fun u hok => enqueueBody_axes_of_head (s := s.begin) hqueue hok) h

end Sys2Proof.Proofs
end

section
/-! PROOF. The arguments of a command (45_commands.md R201 to R203), the coordinated move (R204 to R209) and the
commands that are only reported (R218). -/

namespace Sys2Proof

/-! ### The reported header (45_commands.md R218) -/

/-- The masked header of the three unrecognized rows; none for the others. -/
def unrecognizedHeader : Command → Option Header
  | .gUnrecognized major minor => some (headerWord 0#2 major minor)
  | .nUnrecognized major minor => some (headerWord 2#2 major minor)
  | .unknownUnrecognized major minor => some (headerWord 3#2 major minor)
  | _ => none

theorem unrecognizedHeader_decodeG {major minor : BitVec 16} {args : Slots} {h : Header}
    (hrow : unrecognizedHeader (decodeG major minor args) = some h) : headerWord 0#2 major minor = h := by
  cases htaken : takenByGRow major minor with
  | false =>
    rw [decodeG_of_not_taken args htaken] at hrow
    exact Option.some.inj hrow
  | true =>
    simp only [takenByGRow, recognizedGMajors, Bool.and_eq_true, beq_iff_eq, List.contains_iff_mem, List.mem_cons,
      List.not_mem_nil, or_false] at htaken
    obtain ⟨rfl, rfl | rfl | rfl | rfl | rfl | rfl | rfl⟩ := htaken <;> cases hrow

theorem unrecognizedHeader_decodeM (major minor : BitVec 16) : unrecognizedHeader (decodeM major minor) = none := by
  unfold decodeM
  split <;> rfl

/-- A bundle of an unrecognized row has the row's fields in its header. -/
theorem header_and_mask_of_unrecognized {c : Bundle} {h : Header} (hrow : unrecognizedHeader (decodeCmd c) = some h) :
    cmdHeader c &&& 0x0000FFFFFFFF0003#64 = h := by
  rw [header_and_mask]
  rcases mnem_cases (headerMnem (cmdHeader c)) with hm | hm | hm | hm
  · rw [decodeCmd_of_mnemG hm] at hrow
    rw [hm, unrecognizedHeader_decodeG hrow]
  · rw [decodeCmd_of_mnemM hm, unrecognizedHeader_decodeM] at hrow
    cases hrow
  · rw [decodeCmd_of_mnemN hm] at hrow
    rw [hm]
    exact Option.some.inj hrow
  · rw [decodeCmd_of_mnemUnknown hm] at hrow
    rw [hm]
    exact Option.some.inj hrow

/-- A header by place value (30_encoding.md R81). -/
theorem headerWord_eq_reportId (mnem : BitVec 2) (major minor : BitVec 16) :
    headerWord mnem major minor = Claims.reportId mnem.toNat major minor := by
  apply BitVec.eq_of_toNat_eq
  have hmnem := mnem.isLt
  have hmajor := major.isLt
  have hminor := minor.isLt
  simp only [headerWord, Machine.toNat_append_eq_add, Claims.reportId, BitVec.toNat_ofNat]
  omega

end Sys2Proof

namespace Sys2Proof.Machine

open Sys2Proof Sys2Proof.Claims

/-! ### The gathered feed rate (45_commands.md R201, R203) -/

theorem gatherSlot_f (g : Gathered) (slot : Option Arg) :
    (gatherSlot g slot).f = (slot.filter fun arg => decide (arg.tag = .f)).or g.f := by
  cases slot with
  | none => rfl
  | some arg =>
    obtain ⟨tag, int, frac, float⟩ := arg
    cases tag <;> rfl

theorem gather_f (args : Slots) : (gather args).f = (withTag args .f).getLast? := by
  simp [gather, gatherSlot_f, Gathered.empty, getLast?_withTag]

theorem map_argToFeed_gather (args : Slots) : (gather args).f.map argToFeed = feedArg args := by
  rw [gather_f, feedArg]

theorem cmdG0_eq (args : Slots) (s : State) :
    cmdG0 args s = moveCommand (gather args) (g0Speed args s) (feedAfter args s) s := by
  rw [cmdG0_eq_move, map_argToFeed_gather, g0Speed, feedAfter]

theorem cmdG1_eq (args : Slots) (s : State) :
    cmdG1 args s = moveCommand (gather args) (feedAfter args s) (feedAfter args s) s := by
  rw [cmdG1_eq_move, map_argToFeed_gather, feedAfter]

theorem argToSteps_of_integral {arg : Arg} (h : arg.frac = 0#16) (resolution : Word) :
    argToSteps arg resolution = arg.int.toInt * resolution.toNat := if_pos h

theorem toNat_argToFeed_of_integral {arg : Arg} (h : arg.frac = 0#16) (hpos : 0 ≤ arg.int.toInt) :
    ((argToFeed arg).toNat : Int) = arg.int.toInt := by
  rw [argToFeed, if_pos ⟨h, hpos⟩]
  have hlt := arg.int.isLt
  have hsigned := BitVec.toInt_eq_toNat_cond arg.int
  split at hsigned <;> omega

/-! ### The order of the axes (45_commands.md R207) -/

theorem before_x_y : before .x .y := by unfold before; decide
theorem before_x_z : before .x .z := by unfold before; decide
theorem before_y_z : before .y .z := by unfold before; decide

/-! ### The resolved targets (45_commands.md R206 step 1, R207) -/

/-- The exact target of each axis. -/
def exactTargets (args : Slots) (s : State) : PerAxis Int :=
  ⟨exactTarget args s .x, exactTarget args s .y, exactTarget args s .z⟩

section Move
variable {args : Slots} {s : State} {a : Axis} {speed newFeed : Word}

theorem exactTargets_get (args : Slots) (s : State) (a : Axis) : (exactTargets args s).get a = exactTarget args s a := by
  cases a <;> rfl

theorem exactTarget_of_none (h : (withTag args (tagOf a)).getLast? = none) :
    exactTarget args s a = (s.axis a).position.toInt := by
  simp only [exactTarget, h]

theorem exactTarget_of_some {g : Arg} (h : (withTag args (tagOf a)).getLast? = some g) :
    exactTarget args s a = namedTarget g a s := by
  cases hmode : s.mode <;> simp [exactTarget, namedTarget, h, hmode]

/-- A target is accepted where its exact value lies in i32; an axis that is not named stays where it is, in i32. -/
theorem resolveTarget_gather (args : Slots) (s : State) (a : Axis) :
    resolveTarget (gather args) a s =
      if inI32 (exactTarget args s a) then .ok (exactTarget args s a) else .error (.raised .arithOverflow (some a)) := by
  have hgathered := gather_axis args a
  cases h : (withTag args (tagOf a)).getLast? with
  | none =>
    rw [resolveTarget_of_none (hgathered.trans h), exactTarget_of_none h, if_pos (inI32_toInt _)]
  | some g => rw [resolveTarget_of_some (hgathered.trans h), exactTarget_of_some h]

theorem resolveTargets_of_fits (h : ∀ a, inI32 (exactTarget args s a) = true) :
    resolveTargets (gather args) s = .ok (exactTargets args s) :=
  resolveTargets_eq_ok.mpr fun a => by rw [resolveTarget_gather, if_pos (h a), exactTargets_get]

/-- The targets are resolved in the order X, Y, Z, so the first axis outside i32 names the fault (45_commands.md R207). -/
theorem resolveTargets_of_outside (h : inI32 (exactTarget args s a) = false)
    (hbefore : ∀ b, before b a → inI32 (exactTarget args s b) = true) :
    resolveTargets (gather args) s = .error (.raised .arithOverflow (some a)) := by
  have hraise : resolveTarget (gather args) a s = .error (.raised .arithOverflow (some a)) := by
    rw [resolveTarget_gather, h, if_neg Bool.false_ne_true]
  have hpass (b : Axis) (hb : before b a) : resolveTarget (gather args) b s = .ok (exactTarget args s b) := by
    rw [resolveTarget_gather, if_pos (hbefore b hb)]
  rw [resolveTargets]
  cases a with
  | x => rw [hraise, error_bind]
  | y => rw [hpass .x before_x_y, ok_bind, hraise, error_bind]
  | z => rw [hpass .x before_x_z, ok_bind, hpass .y before_y_z, ok_bind, hraise, error_bind]

/-! ### The move past its targets (45_commands.md R206, R208, R209) -/

theorem displacement_exactTargets (args : Slots) (s : State) (a : Axis) :
    displacement (exactTargets args s) s a = disp args s a := by
  rw [displacement, exactTargets_get, disp]

theorem allocatedSpeed_exactTargets (speed : Word) (args : Slots) (s : State) (a : Axis) :
    allocatedSpeed speed (displacement (exactTargets args s) s a) (distOf args s) = spd speed args s a := by
  rw [displacement_exactTargets, allocatedSpeed, spd]

theorem moveCommand_of_outside (h : inI32 (exactTarget args s a) = false)
    (hbefore : ∀ b, before b a → inI32 (exactTarget args s b) = true) :
    moveCommand (gather args) speed newFeed s = .error (.raised .arithOverflow (some a)) := by
  rw [moveCommand, resolveTargets_of_outside h hbefore, error_bind]

theorem moveCommand_of_degenerate (hfits : ∀ a, inI32 (exactTarget args s a) = true)
    (h : distOf args s = 0 ∨ speed = 0#32) :
    moveCommand (gather args) speed newFeed s = .ok (s.setFeedRate newFeed) := by
  rw [moveCommand, resolveTargets_of_fits hfits, ok_bind]
  exact if_pos h.symm

theorem moveCommand_of_move (hfits : ∀ a, inI32 (exactTarget args s a) = true) (hdist : distOf args s ≠ 0)
    (hspeed : speed ≠ 0#32) :
    moveCommand (gather args) speed newFeed s = startMove (exactTargets args s) (distOf args s) speed newFeed s := by
  rw [moveCommand, resolveTargets_of_fits hfits, ok_bind]
  exact if_neg fun h => h.elim hspeed hdist

/-- The first moving axis with no speed ends the move before any write (45_commands.md R209). -/
theorem startMove_of_zero_speed (hmoves : disp args s a ≠ 0) (hzero : spd speed args s a = 0)
    (hbefore : ∀ b, before b a → disp args s b ≠ 0 → spd speed args s b ≠ 0) :
    startMove (exactTargets args s) (distOf args s) speed newFeed s = .error (.raised .zeroAxisSpeed (some a)) := by
  have hraise : checkSpeed speed (distOf args s) (exactTargets args s) s a = .error (.raised .zeroAxisSpeed (some a)) := by
    rw [checkSpeed, allocatedSpeed_exactTargets, displacement_exactTargets, if_pos ⟨hmoves, hzero⟩]
  have hpass (b : Axis) (hb : before b a) : checkSpeed speed (distOf args s) (exactTargets args s) s b = .ok () := by
    rw [checkSpeed_eq_ok, allocatedSpeed_exactTargets, displacement_exactTargets]
    exact hbefore b hb
  rw [startMove]
  cases a with
  | x => rw [hraise, error_bind]
  | y => rw [hpass .x before_x_y, ok_bind, hraise, error_bind]
  | z => rw [hpass .x before_x_z, ok_bind, hpass .y before_y_z, ok_bind, hraise, error_bind]

theorem moveCommand_of_zero_speed (hfits : ∀ a, inI32 (exactTarget args s a) = true) (hdist : distOf args s ≠ 0)
    (hspeed : speed ≠ 0#32) (hmoves : disp args s a ≠ 0) (hzero : spd speed args s a = 0)
    (hbefore : ∀ b, before b a → disp args s b ≠ 0 → spd speed args s b ≠ 0) :
    moveCommand (gather args) speed newFeed s = .error (.raised .zeroAxisSpeed (some a)) :=
  (moveCommand_of_move hfits hdist hspeed).trans (startMove_of_zero_speed hmoves hzero hbefore)

/-! ### The state a started move leaves -/

theorem signOf_of_ne_zero {v : Int} (h : v ≠ 0) : signOf v = if 0 < v then .positive else .negative := by
  rcases lt_or_gt_of_ne h with hv | hv
  · rw [signOf_of_neg hv, if_neg (by omega)]
  · rw [signOf_of_pos hv, if_pos hv]

section OnTarget
variable (hfits : inI32 (exactTarget args s a) = true) (htarget : s.onTarget a = true)
include hfits

theorem toInt_ofInt_sub_position :
    (BitVec.ofInt 32 (exactTarget args s a)).toInt - (s.axis a).position.toInt = disp args s a := by
  rw [toInt_ofInt_of_inI32 hfits, disp]

include htarget

/-- From rest, an axis that moves takes a target other than the one it stands on. -/
theorem ofInt_exactTarget_ne_target (hmoves : disp args s a ≠ 0) :
    BitVec.ofInt 32 (exactTarget args s a) ≠ (s.axis a).target := by
  intro hsame
  have hposition := (s.onTarget_iff a |>.mp htarget).1
  have hdisp := toInt_ofInt_sub_position hfits
  rw [hsame, ← hposition, sub_self] at hdisp
  exact hmoves hdisp.symm

theorem movedUnit_exactTargets :
    movedUnit speed (distOf args s) (exactTargets args s) a (s.axis a) = movedAxis speed args s a := by
  rw [movedUnit, movedAxis, exactTargets_get]
  by_cases hmoves : disp args s a = 0
  · rw [if_pos (.inl hmoves), if_pos hmoves]
  · rw [if_neg fun h => h.elim hmoves (ofInt_exactTarget_ne_target hfits htarget hmoves), if_neg hmoves]
    rw [newTargetUnit, toInt_ofInt_sub_position hfits, signOf_of_ne_zero hmoves, if_neg hmoves]
    rfl

theorem movedEffects_exactTargets (hlow : (s.axis a).pulseHigh = false) :
    movedEffects (exactTargets args s) a (s.axis a) = movedDir args s a := by
  rw [movedEffects, movedDir, exactTargets_get]
  by_cases hmoves : disp args s a = 0
  · rw [if_pos (.inl hmoves), if_pos hmoves]
  · rw [if_neg fun h => h.elim hmoves (ofInt_exactTarget_ne_target hfits htarget hmoves), if_neg hmoves]
    rw [newTargetEffects, toInt_ofInt_sub_position hfits, hlow, if_neg hmoves]
    rfl

end OnTarget

/-- On target no pulse is high, for a high pulse has its fall scheduled (10_state.md R37). -/
theorem State.Inv.pulse_low_of_onTarget (hinv : s.Inv) (htarget : s.onTarget a = true) : (s.axis a).pulseHigh = false :=
  Bool.eq_false_iff.mpr fun hhigh => (hinv.axis_inv a).pulse_scheduled hhigh (s.onTarget_iff a |>.mp htarget).2

theorem movedState_begin (hinv : s.Inv) (htarget : s.allOnTarget = true)
    (hfits : ∀ a, inI32 (exactTarget args s a) = true) :
    movedState (exactTargets args s) (distOf args s) speed newFeed s.begin = moved speed newFeed args s := by
  have hon (a : Axis) : s.onTarget a = true := s.allOnTarget_iff.mp htarget a
  have hunit (a : Axis) : movedUnit speed (distOf args s) (exactTargets args s) a (s.begin.axis a) = _ :=
    movedUnit_exactTargets (hfits a) (hon a)
  have heffects (a : Axis) : movedEffects (exactTargets args s) a (s.begin.axis a) = _ :=
    movedEffects_exactTargets (hfits a) (hon a) (hinv.pulse_low_of_onTarget (hon a))
  rw [movedState, hunit, hunit, hunit, heffects, heffects, heffects]
  rfl

/-- A move with a distance and a speed for every moving axis leaves `moved` (45_commands.md R206 step 4). -/
theorem moveCommand_begin_of_start (hinv : s.Inv) (htarget : s.allOnTarget = true)
    (hfits : ∀ a, inI32 (exactTarget args s a) = true) (hdist : distOf args s ≠ 0) (hspeed : speed ≠ 0#32)
    (hspeeds : ∀ a, disp args s a ≠ 0 → spd speed args s a ≠ 0) :
    moveCommand (gather args) speed newFeed s.begin = .ok (moved speed newFeed args s) := by
  have hmove : moveCommand (gather args) speed newFeed s.begin = _ := moveCommand_of_move (s := s.begin) hfits hdist hspeed
  rw [hmove, startMove_eq, ← movedState_begin hinv htarget hfits]
  · rfl
  · intro a
    rw [allocatedSpeed_exactTargets, displacement_exactTargets]
    exact hspeeds a

end Move

/-! ### Distances and speeds (45_commands.md R208, R209) -/

section Distance
variable (args : Slots) (s : State)

theorem natAbs_sq_cast (v : Int) : ((v.natAbs ^ 2 : Nat) : Int) = v ^ 2 := by
  rw [Nat.cast_pow, Int.natCast_natAbs, sq_abs]

theorem distOf_bounds :
    (distOf args s : Int) ^ 2 ≤ disp args s .x ^ 2 + disp args s .y ^ 2 + disp args s .z ^ 2 ∧
    disp args s .x ^ 2 + disp args s .y ^ 2 + disp args s .z ^ 2 < ((distOf args s : Int) + 1) ^ 2 := by
  obtain ⟨hle, hlt⟩ := isqrt_spec
    ((disp args s .x).natAbs ^ 2 + (disp args s .y).natAbs ^ 2 + (disp args s .z).natAbs ^ 2)
  have hsum : disp args s .x ^ 2 + disp args s .y ^ 2 + disp args s .z ^ 2 =
      (((disp args s .x).natAbs ^ 2 + (disp args s .y).natAbs ^ 2 + (disp args s .z).natAbs ^ 2 : Nat) : Int) := by
    rw [Nat.cast_add, Nat.cast_add, natAbs_sq_cast, natAbs_sq_cast, natAbs_sq_cast]
  change distOf args s * distOf args s ≤ _ at hle
  change _ < (distOf args s + 1) * (distOf args s + 1) at hlt
  rw [← sq] at hle hlt
  rw [hsum]
  exact ⟨by exact_mod_cast hle, by exact_mod_cast hlt⟩

theorem natAbs_disp_le (a : Axis) : (disp args s a).natAbs ≤ distOf args s := by
  refine le_isqrt ?_
  rw [← sq]
  cases a
  · rw [add_assoc]
    exact Nat.le_add_right ..
  · exact (Nat.le_add_left ..).trans (Nat.le_add_right ..)
  · exact Nat.le_add_left ..

theorem spd_le (speed : Word) (a : Axis) : spd speed args s a ≤ speed.toNat := by
  refine Nat.div_le_of_le_mul ?_
  rw [Nat.mul_comm]
  exact Nat.mul_le_mul_right _ (natAbs_disp_le args s a)

end Distance

end Sys2Proof.Machine

namespace Sys2Proof.Proofs

open Sys2Proof Sys2Proof.Machine Sys2Proof.Claims

/-- Settles O47: the one effect, whose id is the row's header. -/
theorem unrecognizedCommandsAreReported : Obligations.UnrecognizedCommandsAreReported := by
  intro s major minor hs
  have hreport (mnem : BitVec 2) : runCommand (cmdUnrecognized mnem major minor) s =
      .next { s with effects := [.diag .unrecognizedCommand (reportId mnem.toNat major minor)] } := by
    rw [← headerWord_eq_reportId]
    exact runCommand_of_ok hs rfl
  refine ⟨hreport 0#2, hreport 2#2, hreport 3#2, fun c => ⟨fun hdec => ?_, fun hdec => ?_, fun hdec => ?_⟩, rfl, rfl⟩
  · exact (header_and_mask_of_unrecognized (by rw [hdec]; rfl)).trans (headerWord_eq_reportId 0#2 major minor)
  · exact (header_and_mask_of_unrecognized (by rw [hdec]; rfl)).trans (headerWord_eq_reportId 2#2 major minor)
  · exact (header_and_mask_of_unrecognized (by rw [hdec]; rfl)).trans (headerWord_eq_reportId 3#2 major minor)

/-- Settles O48: each slot takes the place of what was gathered under its tag. -/
theorem gatherTakesTheLastSlotOfATag : Obligations.GatherTakesTheLastSlotOfATag :=
  fun args => ⟨gather_axis args, gather_f args⟩

/-- Settles O49: the integral branch of both conversions. -/
theorem integerArgumentsScaleExactly : Obligations.IntegerArgumentsScaleExactly :=
  fun _ resolution hfrac => ⟨argToSteps_of_integral hfrac resolution, toNat_argToFeed_of_integral hfrac⟩

/-- Settles O51: G0 and G1 are one move with different speeds, and from rest it leaves `moved`. -/
theorem movesStartEveryMovingAxis : Obligations.MovesStartEveryMovingAxis := by
  intro s args hinv hs htarget hfits hdist
  constructor
  · intro hspeed hspeeds
    exact runCommand_of_ok hs
      ((cmdG0_eq args s.begin).trans (moveCommand_begin_of_start hinv htarget hfits hdist hspeed hspeeds))
  · intro hspeed hspeeds
    exact runCommand_of_ok hs
      ((cmdG1_eq args s.begin).trans (moveCommand_begin_of_start hinv htarget hfits hdist hspeed hspeeds))

/-- Settles O52: the move ends once its targets are resolved. -/
theorem degenerateMovesOnlyWriteTheFeedRate : Obligations.DegenerateMovesOnlyWriteTheFeedRate := by
  intro s args hs hfits
  constructor
  · intro hdegenerate
    exact runCommand_of_ok hs
      ((cmdG0_eq args s.begin).trans (moveCommand_of_degenerate (s := s.begin) hfits hdegenerate))
  · intro hdegenerate
    exact runCommand_of_ok hs
      ((cmdG1_eq args s.begin).trans (moveCommand_of_degenerate (s := s.begin) hfits hdegenerate))

/-- Settles O53: the targets are resolved, and then the speeds checked, in the order X, Y, Z. -/
theorem movesWithABadAxisHalt : Obligations.MovesWithABadAxisHalt := by
  intro s args a hs
  refine ⟨fun hout hbefore => ⟨?_, ?_⟩, fun hfits hdist hmoves => ⟨?_, ?_⟩, fun v => inI32_iff⟩
  · exact runCommand_of_raised hs ((cmdG0_eq args s.begin).trans (moveCommand_of_outside (s := s.begin) hout hbefore))
  · exact runCommand_of_raised hs ((cmdG1_eq args s.begin).trans (moveCommand_of_outside (s := s.begin) hout hbefore))
  · intro hspeed hzero hbefore
    exact runCommand_of_raised hs ((cmdG0_eq args s.begin).trans
      (moveCommand_of_zero_speed (s := s.begin) hfits hdist hspeed hmoves hzero hbefore))
  · intro hspeed hzero hbefore
    exact runCommand_of_raised hs ((cmdG1_eq args s.begin).trans
      (moveCommand_of_zero_speed (s := s.begin) hfits hdist hspeed hmoves hzero hbefore))

/-- Settles O54: the distance is the integer square root, which bounds each displacement. -/
theorem allocatedSpeedsStayBelowTheRequest : Obligations.AllocatedSpeedsStayBelowTheRequest :=
  ⟨fun s args => distOf_bounds args s, fun s args speed a _ => ⟨natAbs_disp_le args s a, spd_le args s speed a⟩⟩

end Sys2Proof.Proofs
end
